-- ==== Sys2Proof/Word.lean ====
section
/-! DEFINITION. The word types of the core, one per width of 00_scope.md R7. -/

namespace Sys2Proof

/-- `BLOCK_W = 8`: a plaintext or ciphertext block (00_scope.md R7). -/
abbrev Block := BitVec 8

/-- `KEY_W = 10`: the master key (R7). -/
abbrev Key := BitVec 10

/-- `SUBKEY_W = 8`: one of K1, K2 (R7). -/
abbrev Subkey := BitVec 8

/-- `KHALF_W = 5`: one half of the key schedule (R7). -/
abbrev KHalf := BitVec 5

/-- `HALF_W = 4`: one Feistel half (R7). -/
abbrev Half := BitVec 4

/-- The 20-bit command word of 30_encoding.md R38. -/
abbrev CmdWord := BitVec 20

end Sys2Proof
end

