-- ==== Sys2Proof/Syntax.lean ====
section
/-! DEFINITION. The command set SDES-CMD (00_scope.md R3, 30_encoding.md R40): one constructor per row of
spec/opcode_table.json. -/

namespace Sys2Proof

/-- A command with its immediate operands (30_encoding.md R39, R40). Operands are typed by width, so that a
malformed one cannot be written (92_eei_decisions.md D21). -/
inductive Instr where
  /-- `ENC data, key`: encrypt one block (44_cipher_commands.md R79). -/
  | enc (data : Block) (key : Key)
  /-- `DEC data, key`: decrypt one block (R80). -/
  | dec (data : Block) (key : Key)
  /-- `KEYGEN key`: derive the subkeys (R81). Its word's `w[7:0]` is ignored (30_encoding.md R41), so it is no
  operand. -/
  | keygen (key : Key)
deriving DecidableEq, Repr

end Sys2Proof
end

