-- ==== Sys2Proof/Decode.lean ====
section
/-! DEFINITION. The command word (30_encoding.md R38 to R44): its fields, the decoder, total on all 2^20 words and
rejecting the reserved op by name, the encoder (R46), and the op map as mask and match rows (R40). -/

namespace Sys2Proof

/-- `op = w[19:18]` (30_encoding.md R38). -/
def opField (w : CmdWord) : BitVec 2 := w.extractLsb' 18 2

/-- `key = w[17:8]` (R38, R39). -/
def keyField (w : CmdWord) : Key := w.extractLsb' 8 10

/-- `data = w[7:0]` (R38, R39). -/
def dataField (w : CmdWord) : Block := w.extractLsb' 0 8

/-- Why a word selects no command. -/
inductive DecodeRefusal where
  /-- The reserved op value `0b11` (30_encoding.md R42). -/
  | illegalCommand (op : BitVec 2)
deriving DecidableEq, Repr

/-- Decode a command word by its op field alone (30_encoding.md R40, R43). -/
def decode (w : CmdWord) : Except DecodeRefusal Instr :=
  match (opField w).toNat with
  | 0 => .ok (.enc (dataField w) (keyField w))
  | 1 => .ok (.dec (dataField w) (keyField w))
  | 2 => .ok (.keygen (keyField w))
  | _ => .error (.illegalCommand (opField w))

/-- The fields put side by side (30_encoding.md R46). -/
def packWord (op : BitVec 2) (key : Key) (data : Block) : CmdWord := op ++ key ++ data

/-- Encode a command (30_encoding.md R46). KEYGEN's ignored bits are written as 0 (notes/assumptions/17.md). -/
def encode : Instr → CmdWord
  | .enc d k => packWord 0b00#2 k d
  | .dec d k => packWord 0b01#2 k d
  | .keygen k => packWord 0b10#2 k 0#8

/-- One row of the op map: the words with `w AND mask = value`. -/
structure OpcodeRow where
  value : CmdWord
  mask : CmdWord
deriving DecidableEq, Repr

/-- The word belongs to the row. -/
def OpcodeRow.covers (r : OpcodeRow) (w : CmdWord) : Bool := w &&& r.mask == r.value

/-- The op map: ENC, DEC, KEYGEN and the reserved value (30_encoding.md R40). -/
def opcodeRows : List OpcodeRow :=
  [⟨0x00000#20, 0xC0000#20⟩, ⟨0x40000#20, 0xC0000#20⟩, ⟨0x80000#20, 0xC0000#20⟩, ⟨0xC0000#20, 0xC0000#20⟩]

/-- A number whose low `nbits` bits are given as the host gives them, on the 20 wires of the command port; bits
above bit 19 drive no wire (notes/assumptions/11.md). -/
def tableWord (nbits w : Nat) : CmdWord := BitVec.ofNat 20 (w % 2 ^ nbits)

/-- The command the decoder reads from a word numbered as spec/opcode_table.json numbers it. -/
def decodeTableWord (nbits w : Nat) : Option Instr :=
  match decode (tableWord nbits w) with
  | .ok i => some i
  | .error _ => none

end Sys2Proof
end

