-- ==== Sys2Proof/Config.lean ====
section
/-! DEFINITION. What an implementation fixes: the shape of the table record `SdesTables` (00_scope.md R9), the
parameter `LATENCY` (R8), and the free value the spec leaves open (60_exceptions.md R88). -/

namespace Sys2Proof

/-- A permutation table of `M` entries over an input of width `N`, written as the spec writes it: the list of
1-based source positions in output order (00_scope.md R12). A table with an entry outside `1..N` cannot be built
(40_permutation_unit.md R47, R55; 93_implementation_defined.md U1). -/
structure PermTable (N M : Nat) where
  entries : List Nat
  shape : entries.length = M
  inRange : ∀ t ∈ entries, 1 ≤ t ∧ t ≤ N
deriving DecidableEq, Repr

/-- A 4×4 table of values 0 to 3, as its list of rows (41_sbox.md R59, R62). -/
structure SBox where
  rows : List (List Nat)
  shape : rows.length = 4 ∧ ∀ r ∈ rows, r.length = 4
  inRange : ∀ r ∈ rows, ∀ e ∈ r, e ≤ 3
deriving DecidableEq, Repr

/-- `T` undoes `U` entry by entry: `T[U[j]] = j` for every position `j` (40_permutation_unit.md R52). -/
abbrev UndoesEntries (T U : List Nat) : Prop :=
  ∀ j < 8, T.getD (U.getD j 0 - 1) 0 = j + 1

/-- The core's eight constant tables as one configuration record (00_scope.md R9, 10_state.md R25). A record
whose IP and IPI are not mutually inverse cannot be built (40_permutation_unit.md R52). -/
structure SdesTables where
  p10 : PermTable 10 10
  p8 : PermTable 10 8
  ip : PermTable 8 8
  ipi : PermTable 8 8
  ep : PermTable 4 8
  p4 : PermTable 4 4
  s0 : SBox
  s1 : SBox
  ipiUndoesIp : UndoesEntries ipi.entries ip.entries
  ipUndoesIpi : UndoesEntries ip.entries ipi.entries
deriving DecidableEq, Repr

namespace Config

/-- The free part of `LATENCY` (00_scope.md R8): any natural number. -/
opaque latencyBeyondOne : Nat

/-- `LATENCY`, the cycles from a command's acceptance to its response: any number `>= 1`
(00_scope.md R8, 70_reset_and_hazards.md R103). No functional rule reads it (notes/assumptions/10.md). -/
def latency : Nat := latencyBeyondOne + 1

/-- Free value: which of several failing checks the host-side adapter reports, at its `n`-th such report
(60_exceptions.md R88, 93_implementation_defined.md U4; notes/assumptions/8.md). -/
opaque adapterChoice : Nat → Nat

end Config

end Sys2Proof
end

