-- ==== Sys2Proof/Machine/State.lean ====
section
/-! DEFINITION. The state of the machine: the core's elements (10_state.md R18), the levels on its input ports
(R27), and the host agent (R15). Its faults and refusals. State.reset (R28). -/

namespace Sys2Proof.Machine

/-- The response fields that hold a value or NONE (10_state.md R18). -/
inductive RspField where
  | data | k1 | k2
deriving DecidableEq, Repr

/-- The state elements that can hold NONE (10_state.md R18). -/
inductive NoneField where
  | pend
  | rsp (f : RspField)
deriving DecidableEq, Repr

/-- A request in the source's string form (60_exceptions.md R87): characters, leftmost first. -/
inductive StringRequest where
  /-- The source's `encrypt(plaintext8, key10)`. -/
  | encrypt (block key : List Char)
  /-- The source's `decrypt(cipher8, key10)`. -/
  | decrypt (block key : List Char)
  /-- The source's `generate_subkeys(key10)`. -/
  | generateSubkeys (key : List Char)
deriving DecidableEq, Repr

/-- The string argument a refusal names. -/
inductive StringArg where
  | block | key
deriving DecidableEq, Repr

/-- A refusal of the host-side adapter (60_exceptions.md R87). It is no exception of the core: the run goes on. -/
inductive HostRefusal where
  | invalidLength (arg : StringArg)
  | invalidCharacter (arg : StringArg)
deriving DecidableEq, Repr

/-- What a `Read` returns (10_state.md R24). -/
structure Sample where
  valid : Bool
  err : Bool
  /-- `NOT BUSY`. -/
  ready : Bool
  /-- RSP_DATA where it is not NONE; likewise for the subkeys. -/
  data : Option Block
  k1 : Option Subkey
  k2 : Option Subkey
deriving DecidableEq, Repr

/-- One turn of one agent (10_state.md R15). Which turn comes next is plain data (notes/assumptions/2.md). -/
inductive Turn where
  /-- Host: offer the word `w` on the command port. Taken as `Issue(w)` where the core is ready
  (44_cipher_commands.md R74), held on the port where it is not (R76). -/
  | offer (w : CmdWord)
  /-- Host: the clock edge at which a held command is taken, where the core is ready (10_state.md R27). -/
  | accept
  /-- Host: stop offering (`cmd_valid <- 0`). -/
  | withdraw
  /-- Host: a request in string form through the adapter (60_exceptions.md R87). -/
  | submit (r : StringRequest)
  /-- Host: `Read` (10_state.md R24). -/
  | read
  /-- Host: use the value of a response field (10_state.md R24, 70_reset_and_hazards.md R98). -/
  | useField (f : RspField)
  /-- Host: `Reset` (70_reset_and_hazards.md R95); `rst` stays at 1 afterwards where `held`, else it is released. -/
  | reset (held : Bool)
  /-- Host: release `rst` (R95). -/
  | releaseRst
  /-- Core: `Complete` (44_cipher_commands.md R75). -/
  | complete
deriving DecidableEq, Repr

/-- The whole state. INVENTORY.md lists every field with its rule and its reset value. -/
structure State where
  /-- BUSY: a command is in flight (10_state.md R19). -/
  busy : Bool
  /-- PEND: the word in flight, or NONE (R20). -/
  pend : Option CmdWord
  /-- RSP_VALID (R21). -/
  rspValid : Bool
  /-- RSP_ERR (R22). -/
  rspErr : Bool
  /-- RSP_DATA, or NONE (R23). -/
  rspData : Option Block
  /-- RSP_K1, or NONE (R23). -/
  rspK1 : Option Subkey
  /-- RSP_K2, or NONE (R23). -/
  rspK2 : Option Subkey
  /-- The level on the input port `rst` (R27, 70_reset_and_hazards.md R95). -/
  rst : Bool
  /-- The input ports `cmd_valid` and `cmd_word`: the word on offer, if any (R27, 70_reset_and_hazards.md R100). -/
  offer : Option CmdWord
  /-- MODEL: the turns still to come (R15; notes/assumptions/2.md). -/
  turns : List Turn
  /-- MODEL: what the host's last `Read` returned (R24; notes/assumptions/6.md). -/
  hostSample : Option Sample
  /-- MODEL: the field value the host last used (R24; notes/assumptions/6.md). -/
  hostValue : Option (BitVec 8)
  /-- MODEL: the adapter's last refusal (60_exceptions.md R87; notes/assumptions/8.md). -/
  hostRefusal : Option HostRefusal
  /-- MODEL: how many free values the adapter has drawn (60_exceptions.md R88; notes/assumptions/8.md). -/
  adapterDraws : Nat
deriving DecidableEq, Repr

/-- The output ports of 10_state.md R27. -/
structure OutPorts where
  cmdReady : Bool
  rspValid : Bool
  rspErr : Bool
  rspDv : Bool
  rspKv : Bool
  rspData : BitVec 8
  rspK1 : BitVec 8
  rspK2 : BitVec 8
deriving DecidableEq, Repr

/-- The faults of a step. -/
inductive Fault where
  /-- `ReadOfNone(field)`. Raised by `useField` on a response field holding NONE (10_state.md R24, R98,
  93_implementation_defined.md U5), and by `complete` where BUSY is 1 and PEND holds NONE, which no run from reset
  reaches (R20). Safe: the model stops where the chip gives some value (notes/assumptions/7.md). -/
  | readOfNone (f : NoneField)
deriving DecidableEq, Repr

/-- The refusals of a step. -/
inductive Refusal where
  /-- The instruction has no meaning in `exec` yet. Raised by no arm of this model. Safe. -/
  | notModelled (mnemonic : String)
deriving DecidableEq, Repr

/-- The state right after Reset: 10_state.md R28 for the elements of R18; the ports idle and the host with nothing
done and nothing planned (notes/assumptions/14.md). -/
def State.reset : State where
  busy := false
  pend := none
  rspValid := false
  rspErr := false
  rspData := none
  rspK1 := none
  rspK2 := none
  rst := false
  offer := none
  turns := []
  hostSample := none
  hostValue := none
  hostRefusal := none
  adapterDraws := 0

end Sys2Proof.Machine
end

