-- ==== Sys2Proof/Machine/Flags.lean ====
section
/-! DEFINITION. The flags and the validity signals computed from the state (10_state.md R21, R22, R27,
60_exceptions.md R85). -/

namespace Sys2Proof.Machine

/-- `cmd_ready`: `NOT BUSY` (10_state.md R27), and 0 while `rst` is held (70_reset_and_hazards.md R95;
notes/assumptions/5.md). -/
def cmdReady (s : State) : Bool := !s.busy && !s.rst

/-- `rsp_dv`: RSP_DATA holds a value (10_state.md R27). -/
def rspDv (s : State) : Bool := s.rspData.isSome

/-- `rsp_kv`: RSP_K1 holds a value (R27). -/
def rspKv (s : State) : Bool := s.rspK1.isSome

/-- The cause code RSP_ERR shows: 0 no exception, 1 IllegalCommand (60_exceptions.md R85). -/
def causeCode (s : State) : Nat := if s.rspErr then 1 else 0

/-- `RSP_ERR <- b` (10_state.md R22). -/
def setErr (b : Bool) (s : State) : State := { s with rspErr := b }

/-- `RSP_VALID <- b` (R21). -/
def setValid (b : Bool) (s : State) : State := { s with rspValid := b }

end Sys2Proof.Machine
end

