-- ==== Sys2Proof/Machine/Ops.lean ====
section
/-! DEFINITION. The shared operations: on bit vectors (00_scope.md R10 to R12, 40_permutation_unit.md R47, R56, R58)
and on the state (44_cipher_commands.md R74, R75, 60_exceptions.md R85, 70_reset_and_hazards.md R95). -/

namespace Sys2Proof.Machine

/-! ### Bit vectors -/

/-- The vector whose bit `i` is `f i`. -/
def ofBits : {n : Nat} → (Fin n → Bool) → BitVec n
  | 0, _ => 0#0
  | _ + 1, f => BitVec.cons (f (Fin.last _)) (ofBits fun i => f i.castSucc)

/-- Two bits side by side, `hi ++ lo`. -/
def bits2 (hi lo : Bool) : BitVec 2 := BitVec.ofBool hi ++ BitVec.ofBool lo

/-- `permute(v, T)`: `out[M-i] = v[N - T[i]]` for i = 1..M (40_permutation_unit.md R47). Bit `k` of the output is
the one for `i = M-k`, whose entry is element `M-1-k` of the 0-based list. Every entry is in `1..N`, so every index
read is a bit of `v`. -/
def permute {N M : Nat} (v : BitVec N) (T : PermTable N M) : BitVec M :=
  ofBits fun k => v.getLsbD (N - T.entries.getD (M - 1 - k) 0)

/-- `rotl_N(v, n)`: with `m = n mod N`, the value `v[N-1-m:0] ++ v[N-1:N-m]` (40_permutation_unit.md R56): the low
`m` bits of the result are the high `m` of `v`. -/
def rotl {N : Nat} (v : BitVec N) (n : Nat) : BitVec N :=
  ofBits fun k => if k < n % N then v.getLsbD (N - n % N + k) else v.getLsbD (k - n % N)

/-- `left(x) = x[2h-1:h]` (40_permutation_unit.md R58). -/
def left (h : Nat) (x : BitVec (h + h)) : BitVec h := x.extractLsb' h h

/-- `right(x) = x[h-1:0]` (R58). -/
def right (h : Nat) (x : BitVec (h + h)) : BitVec h := x.extractLsb' 0 h

/-- `join(l, r) = l ++ r` (R58). -/
def join {h : Nat} (l r : BitVec h) : BitVec (h + h) := l ++ r

/-! ### State -/

/-- Plan the turns `ts` (notes/assumptions/2.md). -/
def setTurns (ts : List Turn) (s : State) : State := { s with turns := ts }

/-- Drive the ports `cmd_valid` and `cmd_word` (10_state.md R27). -/
def setOffer (o : Option CmdWord) (s : State) : State := { s with offer := o }

/-- Drive the port `rst` (R27, 70_reset_and_hazards.md R95). -/
def setRst (level : Bool) (s : State) : State := { s with rst := level }

/-- The host has used the value `v` (10_state.md R24). -/
def setHostValue (v : BitVec 8) (s : State) : State := { s with hostValue := some v }

/-- All result fields NONE (44_cipher_commands.md R74). -/
def clearResults (s : State) : State := { s with rspData := none, rspK1 := none, rspK2 := none }

/-- `Issue(w)`: the whole word captured, the response cleared, in one step (44_cipher_commands.md R74). Its enabling
condition is `cmdReady`. The host's offer ends with its acceptance (notes/assumptions/4.md). -/
def issue (w : CmdWord) (s : State) : State :=
  { clearResults (setErr false (setValid false s)) with pend := some w, busy := true, offer := none }

/-- What every `Complete` ends with: `RSP_VALID <- 1`, `BUSY <- 0`, `PEND <- NONE` (44_cipher_commands.md R75). -/
def finish (s : State) : State := { setValid true s with busy := false, pend := none }

/-- `Complete` of a command whose result is a block: `RSP_DATA <- b` (R79, R80). -/
def completeBlock (b : Block) (s : State) : State := finish { s with rspData := some b }

/-- `Complete` of a command whose result is the subkeys (R81). -/
def completeSubkeys (k : Subkey × Subkey) (s : State) : State :=
  finish { s with rspK1 := some k.1, rspK2 := some k.2 }

/-- TAKING THE EXCEPTION IllegalCommand: `RSP_ERR <- 1`, the result fields left as they are, then the rest of
`Complete` (60_exceptions.md R85). Nothing is saved and no control is transferred (R89). There is no return: the
next `Issue` or `Reset` clears RSP_ERR (R90). -/
def raiseIllegalCommand (s : State) : State := finish (setErr true s)

/-- `Reset`: every element of 10_state.md R18 takes its value of R28 (70_reset_and_hazards.md R95). The input ports
and the host are not the core's and stay (notes/assumptions/15.md). -/
def resetCore (s : State) : State :=
  { s with
    busy := State.reset.busy
    pend := State.reset.pend
    rspValid := State.reset.rspValid
    rspErr := State.reset.rspErr
    rspData := State.reset.rspData
    rspK1 := State.reset.rspK1
    rspK2 := State.reset.rspK2 }

end Sys2Proof.Machine
end

