-- ==== Sys2Proof/Machine/Tables.lean ====
section
/-! DEFINITION. The values of the eight constant tables: the default of the record `SdesTables` (00_scope.md R9),
supplied by the spec from general knowledge (93_implementation_defined.md K1 to K8; notes/assumptions/1.md). -/

namespace Sys2Proof.Machine

/-- 40_permutation_unit.md R48. -/
def tableP10 : PermTable 10 10 := ⟨[3, 5, 2, 7, 4, 10, 1, 9, 8, 6], by decide, by decide⟩

/-- 40_permutation_unit.md R49. -/
def tableP8 : PermTable 10 8 := ⟨[6, 3, 7, 4, 8, 5, 10, 9], by decide, by decide⟩

/-- 40_permutation_unit.md R50. -/
def tableIP : PermTable 8 8 := ⟨[2, 6, 3, 1, 4, 8, 5, 7], by decide, by decide⟩

/-- 40_permutation_unit.md R51. -/
def tableIPI : PermTable 8 8 := ⟨[4, 1, 3, 5, 7, 2, 8, 6], by decide, by decide⟩

/-- 40_permutation_unit.md R53. -/
def tableEP : PermTable 4 8 := ⟨[4, 1, 2, 3, 2, 3, 4, 1], by decide, by decide⟩

/-- 40_permutation_unit.md R54. -/
def tableP4 : PermTable 4 4 := ⟨[2, 4, 3, 1], by decide, by decide⟩

/-- 41_sbox.md R60. -/
def tableS0 : SBox := ⟨[[1, 0, 3, 2], [3, 2, 1, 0], [0, 2, 1, 3], [3, 1, 3, 2]], by decide, by decide⟩

/-- 41_sbox.md R61. -/
def tableS1 : SBox := ⟨[[0, 1, 2, 3], [2, 0, 1, 3], [3, 0, 1, 0], [2, 1, 0, 3]], by decide, by decide⟩

/-- The core's table record (00_scope.md R9, 10_state.md R25). No command writes it and Reset does not affect it. -/
def sdesTables : SdesTables where
  p10 := tableP10
  p8 := tableP8
  ip := tableIP
  ipi := tableIPI
  ep := tableEP
  p4 := tableP4
  s0 := tableS0
  s1 := tableS1
  ipiUndoesIp := by decide
  ipUndoesIpi := by decide

end Sys2Proof.Machine
end

