-- ==== Sys2Proof/Machine/Datapath.lean ====
section
/-! DEFINITION. The datapath over any table record `T`: the six permutations (40_permutation_unit.md R48 to R54),
the S-box lookup (41_sbox.md R59, R64), the key schedule (42_key_schedule.md R65 to R68), the round function and the
half swap (43_round_function.md R71, R73), and the compositions ENCRYPT and DECRYPT (44_cipher_commands.md R77, R78). -/

namespace Sys2Proof.Machine

variable (T : SdesTables)

/-- `P10(k)` (40_permutation_unit.md R48). -/
def permP10 (k : Key) : BitVec 10 := permute k T.p10

/-- `P8(v)` (R49). -/
def permP8 (v : BitVec 10) : Subkey := permute v T.p8

/-- `IP(x)` (R50). -/
def permIP (x : Block) : Block := permute x T.ip

/-- `IPI(x)` (R51). -/
def permIPI (x : Block) : Block := permute x T.ipi

/-- `EP(r)` (R53). -/
def permEP (r : Half) : BitVec 8 := permute r T.ep

/-- `P4(s)` (R54). -/
def permP4 (s : BitVec 4) : Half := permute s T.p4

/-- `S[row][col]`, rows and columns numbered from 0 (41_sbox.md R59). -/
def sboxCell (S : SBox) (row col : Nat) : Nat := (S.rows.getD row []).getD col 0

/-- `row = uint(x[3] ++ x[0])` (R59). -/
def sboxRow (x : BitVec 4) : Nat := (bits2 x[3] x[0]).toNat

/-- `col = uint(x[2] ++ x[1])` (R59). -/
def sboxCol (x : BitVec 4) : Nat := (bits2 x[2] x[1]).toNat

/-- `sbox(x, S) = bin_2(S[row][col])` (R59). -/
def sbox (x : BitVec 4) (S : SBox) : BitVec 2 := BitVec.ofNat 2 (sboxCell S (sboxRow x) (sboxCol x))

/-- `SBOXES(e) = sbox(e[7:4], S0) ++ sbox(e[3:0], S1)` (41_sbox.md R64). -/
def sboxes (e : BitVec 8) : BitVec 4 := sbox (e.extractLsb' 4 4) T.s0 ++ sbox (e.extractLsb' 0 4) T.s1

/-- Step 1: the halves `L0`, `R0` of P10(key) (42_key_schedule.md R65). -/
def keyHalves (key : Key) : KHalf × KHalf := (left 5 (permP10 T key), right 5 (permP10 T key))

/-- Steps 2 and 3 each: rotate both halves by `n` (R66, R67). -/
def rotateHalves (h : KHalf × KHalf) (n : Nat) : KHalf × KHalf := (rotl h.1 n, rotl h.2 n)

/-- `P8(L ++ R)` (R66, R67). -/
def subkeyOf (h : KHalf × KHalf) : Subkey := permP8 T (join h.1 h.2)

/-- `KEYSCHED(key) = (K1, K2)` (42_key_schedule.md R68): rotate by 1 for K1, then the rotated halves by 2 for K2. -/
def keySched (key : Key) : Subkey × Subkey :=
  let h1 := rotateHalves (keyHalves T key) 1
  let h2 := rotateHalves h1 2
  (subkeyOf T h1, subkeyOf T h2)

/-- Steps 1 to 4 of fk: `P4(SBOXES(EP(R) XOR K))` (43_round_function.md R71). -/
def feistelF (r : Half) (K : Subkey) : Half := permP4 T (sboxes T (permEP T r ^^^ K))

/-- `fk(b, K)`: the left half is XORed with `f`, the right half passes through (43_round_function.md R71). -/
def fk (b : Block) (K : Subkey) : Block :=
  let l : Half := left 4 b
  let r : Half := right 4 b
  join (l ^^^ feistelF T r K) r

/-- `SW(x) = x[3:0] ++ x[7:4]` (43_round_function.md R73). -/
def swapHalves (x : Block) : Block := join (right 4 x) (left 4 x)

/-- Steps 2 to 6 shared by ENCRYPT and DECRYPT, with the subkeys in the order they are used
(44_cipher_commands.md R77, R78). -/
def twoRounds (b : Block) (first second : Subkey) : Block :=
  let x1 := permIP T b
  let r1 := fk T x1 first
  let sw := swapHalves r1
  let r2 := fk T sw second
  permIPI T r2

/-- `ENCRYPT(p, key)`: K1, then K2 (44_cipher_commands.md R77). -/
def encrypt (p : Block) (key : Key) : Block := twoRounds T p (keySched T key).1 (keySched T key).2

/-- `DECRYPT(c, key)`: K2, then K1 (44_cipher_commands.md R78). -/
def decrypt (c : Block) (key : Key) : Block := twoRounds T c (keySched T key).2 (keySched T key).1

end Sys2Proof.Machine
end

