-- ==== Sys2Proof/Machine/Commands.lean ====
section
/-! DEFINITION. The meanings of the three commands: each is the effect of the core's `Complete` with that command in
flight (44_cipher_commands.md R75, R79 to R81; notes/assumptions/12.md). -/

namespace Sys2Proof.Machine

/-- ENC: `RSP_DATA <- ENCRYPT(data, key)` (44_cipher_commands.md R79). -/
def execEnc (data : Block) (key : Key) (s : State) : Host.Outcome State Fault Refusal :=
  .next (completeBlock (encrypt sdesTables data key) s)

/-- DEC: `RSP_DATA <- DECRYPT(data, key)` (R80). -/
def execDec (data : Block) (key : Key) (s : State) : Host.Outcome State Fault Refusal :=
  .next (completeBlock (decrypt sdesTables data key) s)

/-- KEYGEN: `(RSP_K1, RSP_K2) <- KEYSCHED(key)` (R81). -/
def execKeygen (key : Key) (s : State) : Host.Outcome State Fault Refusal :=
  .next (completeSubkeys (keySched sdesTables key) s)

end Sys2Proof.Machine
end

