-- ==== Sys2Proof/Machine/Dispatch.lean ====
section
/-! DEFINITION. One arm per command (30_encoding.md R40). -/

namespace Sys2Proof.Machine

def exec (i : Instr) (s : State) : Host.Outcome State Fault Refusal :=
  match i with
  | .enc data key => Sys2Proof.Machine.execEnc data key s
  | .dec data key => Sys2Proof.Machine.execDec data key s
  | .keygen key => Sys2Proof.Machine.execKeygen key s

end Sys2Proof.Machine
end

