-- ==== Sys2Proof/Machine/HostBoundary.lean ====
section
/-! DEFINITION. The host-side string adapter (60_exceptions.md R87, R88): it validates strings over '0' and '1'
before a command is issued, and turns a response back into a string. -/

namespace Sys2Proof.Machine

/-- The source's alphabet (60_exceptions.md R87). -/
def isBinaryChar (c : Char) : Bool := c == '0' || c == '1'

/-- Character i of the string (1-based) drives string position i, bit `n-i` (60_exceptions.md R87, 00_scope.md R10).
Applied only to strings of `n` binary characters. -/
def bitsOfChars (n : Nat) (cs : List Char) : BitVec n :=
  ofBits fun k => cs.getD (n - 1 - k) '0' == '1'

/-- The string of a vector, MSB first (20_memory.md R30). -/
def charsOfBits {n : Nat} (v : BitVec n) : List Char :=
  (List.range n).map fun i => if v.getLsbD (n - 1 - i) then '1' else '0'

/-- The checks of 60_exceptions.md R87 that one string argument of required length `n` fails. -/
def failedChecks (arg : StringArg) (n : Nat) (cs : List Char) : List HostRefusal :=
  (if cs.length == n then [] else [.invalidLength arg]) ++
    (if cs.all isBinaryChar then [] else [.invalidCharacter arg])

/-- The failed checks of a request: a block string has 8 characters, a key string 10 (R87). -/
def requestFailures : StringRequest → List HostRefusal
  | .encrypt block key => failedChecks .block 8 block ++ failedChecks .key 10 key
  | .decrypt block key => failedChecks .block 8 block ++ failedChecks .key 10 key
  | .generateSubkeys key => failedChecks .key 10 key

/-- The command of a request that passes every check (00_scope.md R3, 30_encoding.md R40). -/
def requestInstr : StringRequest → Instr
  | .encrypt block key => .enc (bitsOfChars 8 block) (bitsOfChars 10 key)
  | .decrypt block key => .dec (bitsOfChars 8 block) (bitsOfChars 10 key)
  | .generateSubkeys key => .keygen (bitsOfChars 10 key)

/-- The command word a request drives onto the port. -/
def requestWord (r : StringRequest) : CmdWord := encode (requestInstr r)

/-- The refusal reported: `draw` is the free value. Where one check failed it is that one; where several failed,
which of them is open (60_exceptions.md R88; notes/assumptions/8.md). -/
def reportedRefusal (draw : Nat) (failures : List HostRefusal) : Option HostRefusal :=
  failures[draw % failures.length]?

/-- A refusal: no command is issued and no core state changes (R87). -/
def refuseRequest (failures : List HostRefusal) (s : State) : State :=
  { s with
    hostRefusal := reportedRefusal (Config.adapterChoice s.adapterDraws) failures
    adapterDraws := s.adapterDraws + 1 }

/-- The string form of a block response, where there is one. -/
def responseChars (v : Option (BitVec 8)) : Option (List Char) := v.map charsOfBits

end Sys2Proof.Machine
end

