-- ==== Sys2Proof/Machine/Operands.lean ====
section
/-! DEFINITION. Reading the response: one field (10_state.md R24, 70_reset_and_hazards.md R98), the whole sample
(R24) and the output ports (R27). The commands' own operands are fields of the command word (30_encoding.md R39),
taken by the decoder. -/

namespace Sys2Proof.Machine

/-- The content of a response field: a value or NONE (10_state.md R18). -/
def readField (f : RspField) (s : State) : Option (BitVec 8) :=
  match f with
  | .data => s.rspData
  | .k1 => s.rspK1
  | .k2 => s.rspK2

/-- `Read`: RSP_VALID, RSP_ERR, NOT BUSY, and each result field that is not NONE (10_state.md R24). -/
def sample (s : State) : Sample :=
  { valid := s.rspValid, err := s.rspErr, ready := !s.busy, data := s.rspData, k1 := s.rspK1, k2 := s.rspK2 }

/-- The output ports (10_state.md R27). The bits of a field holding NONE are "unspecified (any value)" (R24):
they are `unspecified f`, an argument, so that a claim about the ports holds for every value of them. -/
def outPorts (unspecified : RspField → BitVec 8) (s : State) : OutPorts :=
  { cmdReady := cmdReady s
    rspValid := s.rspValid
    rspErr := s.rspErr
    rspDv := rspDv s
    rspKv := rspKv s
    rspData := s.rspData.getD (unspecified .data)
    rspK1 := s.rspK1.getD (unspecified .k1)
    rspK2 := s.rspK2.getD (unspecified .k2) }

end Sys2Proof.Machine
end

