-- ==== Sys2Proof/Machine/Cycle.lean ====
section
/-! DEFINITION. The turns of the two agents (10_state.md R15): the core's `Complete` (44_cipher_commands.md R75), the
host's `Issue`, hold, `Read`, `Reset` and its use of a response (R74, R76, 10_state.md R24,
70_reset_and_hazards.md R95), and what happens where no turn is planned. -/

namespace Sys2Proof.Machine

/-- The effect of `Complete` for the word `w` (44_cipher_commands.md R75): the command it decodes to, or
IllegalCommand (60_exceptions.md R85). -/
def completeWord (w : CmdWord) (s : State) : Host.Outcome State Fault Refusal :=
  match decode w with
  | .ok i => exec i s
  | .error (.illegalCommand _) => .next (raiseIllegalCommand s)

/-- The core's turn: `Complete`, enabled exactly when BUSY = 1 (44_cipher_commands.md R75). Where it is not enabled
the turn passes (notes/assumptions/3.md). A PEND of NONE gives no value to complete (00_scope.md R13). -/
def completeTurn (s : State) : Host.Outcome State Fault Refusal :=
  if s.busy then
    match s.pend with
    | some w => completeWord w s
    | none => .fault (.readOfNone .pend)
  else .next s

/-- Drive the command port with `w` (10_state.md R27): `Issue(w)` where the core is ready (44_cipher_commands.md
R74), else held on the port, not taken and not lost (R76). -/
def offerWord (w : CmdWord) (s : State) : State :=
  if cmdReady s then issue w s else setOffer (some w) s

/-- The edge at which a held command is taken, where the core is ready (R76, 10_state.md R27). -/
def acceptHeld (s : State) : State :=
  match s.offer with
  | some w => if cmdReady s then issue w s else s
  | none => s

/-- A request in string form: refused before any command is issued, or offered as its word (60_exceptions.md R87). -/
def submitRequest (r : StringRequest) (s : State) : State :=
  match requestFailures r with
  | [] => offerWord (requestWord r) s
  | f :: fs => refuseRequest (f :: fs) s

/-- `Read` changes no element of 10_state.md R18; the host remembers what it returned (R24; notes/assumptions/6.md). -/
def readTurn (s : State) : State := { s with hostSample := some (sample s) }

/-- The host uses a response field's value: `ReadOfNone` where it holds NONE (10_state.md R24,
70_reset_and_hazards.md R98). -/
def useTurn (f : RspField) (s : State) : Host.Outcome State Fault Refusal :=
  match readField f s with
  | some v => .next (setHostValue v s)
  | none => .fault (.readOfNone (.rsp f))

/-- `Reset`, with `rst` held at 1 afterwards or released (70_reset_and_hazards.md R95). -/
def resetTurn (held : Bool) (s : State) : State := setRst held (resetCore s)

/-- One planned turn. -/
def takeTurn (t : Turn) (s : State) : Host.Outcome State Fault Refusal :=
  match t with
  | .offer w => .next (offerWord w s)
  | .accept => .next (acceptHeld s)
  | .withdraw => .next (setOffer none s)
  | .submit r => .next (submitRequest r s)
  | .read => .next (readTurn s)
  | .useField f => useTurn f s
  | .reset held => .next (resetTurn held s)
  | .releaseRst => .next (setRst false s)
  | .complete => completeTurn s

/-- No turn is planned: the core's enabled step is taken, then a held command, as weak fairness asks
(44_cipher_commands.md R76); otherwise nothing moves (notes/assumptions/2.md). -/
def unplannedTurn (s : State) : Host.Outcome State Fault Refusal :=
  if s.busy then completeTurn s else .next (acceptHeld s)

/-- The command word `w` in flight as `Issue(w)` leaves it, and the core's turn next; the host's own offer stays
(notes/assumptions/11.md). -/
def placeCommand (w : CmdWord) (s : State) : State :=
  setTurns (.complete :: s.turns) (setOffer s.offer (issue w s))

end Sys2Proof.Machine
end

