-- ==== Sys2Proof/Machine/Step.lean ====
section
/-! DEFINITION. The one step function, and where a command comes from. -/

namespace Sys2Proof.Machine

/-- One step of one agent: the next planned turn, or what happens without one (10_state.md R15). -/
def step (s : State) : Host.Outcome State Fault Refusal :=
  match s.turns with
  | [] => unplannedTurn s
  | t :: rest => takeTurn t (setTurns rest s)

/-- The core fetches nothing (10_state.md R17): a command is in flight once `Issue` has captured it. This puts the
command word of table numbering in flight and gives the core the next turn (notes/assumptions/11.md). -/
def State.withFetchWord (s : State) (nbits w : Nat) : State := placeCommand (tableWord nbits w) s

end Sys2Proof.Machine
end

