-- ==== Sys2Proof/Machine/Assembler.lean ====
section
/-! DEFINITION. The assembler (30_encoding.md R45, R46): literals, one line, a text. Its layout conventions are in
notes/assumptions/13.md. -/

namespace Sys2Proof.Machine

/-- Why the assembler refuses a text (30_encoding.md R45). -/
inductive AsmRefusal where
  /-- A binary literal: which of its checks fail (the number of digits, a non-binary digit). Both can. -/
  | binaryLiteral (wrongCount nonBinary : Bool)
  /-- A hexadecimal literal too large for its field. -/
  | hexTooLarge
  /-- Neither literal form the operand allows. -/
  | notALiteral
  /-- Not one of ENC, DEC, KEYGEN, .cmd. -/
  | unknownMnemonic
  /-- The number of operands is not the form's. -/
  | wrongOperands
deriving DecidableEq, Repr

/-- A line in one of the four forms of R45, its operands still text. -/
inductive AsmLine where
  | enc (data key : List Char)
  | dec (data key : List Char)
  | keygen (key : List Char)
  | cmd (word : List Char)
deriving DecidableEq, Repr

/-- The value of a hexadecimal digit. -/
def hexDigit (c : Char) : Option Nat :=
  if '0'.toNat ≤ c.toNat ∧ c.toNat ≤ '9'.toNat then some (c.toNat - '0'.toNat)
  else if 'A'.toNat ≤ c.toNat ∧ c.toNat ≤ 'F'.toNat then some (c.toNat - 'A'.toNat + 10)
  else if 'a'.toNat ≤ c.toNat ∧ c.toNat ≤ 'f'.toNat then some (c.toNat - 'a'.toNat + 10)
  else none

/-- The value of hexadecimal digits read after the value `acc`. -/
def hexDigits (acc : Nat) : List Char → Option Nat
  | [] => some acc
  | c :: cs =>
    match hexDigit c with
    | some d => hexDigits (16 * acc + d) cs
    | none => none

/-- The digits after `0b`: "a binary literal of exactly n digits" (R45). -/
def binaryOperand (n : Nat) (ds : List Char) : Except AsmRefusal (BitVec n) :=
  if ds.length == n && ds.all isBinaryChar then .ok (bitsOfChars n ds)
  else .error (.binaryLiteral (ds.length != n) (!ds.all isBinaryChar))

/-- The digits after `0x`: "a hexadecimal literal of value below 2^n" (R45). -/
def hexOperand (n : Nat) (ds : List Char) : Except AsmRefusal (BitVec n) :=
  match ds with
  | [] => .error .notALiteral
  | d :: rest =>
    match hexDigits 0 (d :: rest) with
    | some v => if v < 2 ^ n then .ok (BitVec.ofNat n v) else .error .hexTooLarge
    | none => .error .notALiteral

/-- `<data8>` and `<key10>`: a binary or a hexadecimal literal (R45). -/
def literal (n : Nat) : List Char → Except AsmRefusal (BitVec n)
  | '0' :: 'b' :: ds => binaryOperand n ds
  | '0' :: 'x' :: ds => hexOperand n ds
  | _ => .error .notALiteral

/-- `<word20>`: a hexadecimal literal (R45). -/
def wordLiteral : List Char → Except AsmRefusal CmdWord
  | '0' :: 'x' :: ds => hexOperand 20 ds
  | _ => .error .notALiteral

/-- The word a line emits (30_encoding.md R46). `.cmd` emits any word, reserved ones included. DESIGN CHOICE
(notes/assumptions/18.md): where both operands are malformed the data operand's refusal is reported. -/
def assembleLine : AsmLine → Except AsmRefusal CmdWord
  | .enc d k => do return encode (.enc (← literal 8 d) (← literal 10 k))
  | .dec d k => do return encode (.dec (← literal 8 d) (← literal 10 k))
  | .keygen k => do return encode (.keygen (← literal 10 k))
  | .cmd w => wordLiteral w

/-- Spaces and tabs separate the parts of a line. -/
def isBlank (c : Char) : Bool := c == ' ' || c == '\t' || c == '\r'

/-- A text without the blanks at its two ends. -/
def trimBlanks (cs : List Char) : List Char :=
  ((cs.dropWhile isBlank).reverse.dropWhile isBlank).reverse

/-- A text cut at every `sep`. -/
def splitAtChar (sep : Char) : List Char → List (List Char)
  | [] => [[]]
  | c :: cs =>
    if c == sep then [] :: splitAtChar sep cs
    else
      match splitAtChar sep cs with
      | [] => [[c]]
      | part :: parts => (c :: part) :: parts

/-- A line's mnemonic and its operands, the comment taken off: "Comments begin with `;`" (R45). -/
def lineParts (cs : List Char) : List Char × List (List Char) :=
  let code := trimBlanks (cs.takeWhile (· != ';'))
  let mnemonic := code.takeWhile (fun c => !isBlank c)
  let operands := trimBlanks (code.dropWhile (fun c => !isBlank c))
  (mnemonic, if operands.isEmpty then [] else (splitAtChar ',' operands).map trimBlanks)

/-- Read one line: nothing on a line without code, else one of the forms of R45. DESIGN CHOICE
(notes/assumptions/18.md): the mnemonic is judged first, then the number of operands, then the operands. -/
def parseLine (cs : List Char) : Except AsmRefusal (Option AsmLine) :=
  match lineParts cs with
  | ([], _) => .ok none
  | (['E', 'N', 'C'], [d, k]) => .ok (some (.enc d k))
  | (['D', 'E', 'C'], [d, k]) => .ok (some (.dec d k))
  | (['K', 'E', 'Y', 'G', 'E', 'N'], [k]) => .ok (some (.keygen k))
  | (['.', 'c', 'm', 'd'], [w]) => .ok (some (.cmd w))
  | (m, _) =>
    if m ∈ [['E', 'N', 'C'], ['D', 'E', 'C'], ['K', 'E', 'Y', 'G', 'E', 'N'], ['.', 'c', 'm', 'd']] then
      .error .wrongOperands
    else .error .unknownMnemonic

/-- The words of a list of lines, in order. DESIGN CHOICE (notes/assumptions/18.md): where several lines are malformed
the first one's refusal is reported, and a refused text emits no word at all. -/
def assembleLines : List (List Char) → Except AsmRefusal (List CmdWord)
  | [] => .ok []
  | l :: ls => do
    match ← parseLine l with
    | none => assembleLines ls
    | some a => do
      let w ← assembleLine a
      let ws ← assembleLines ls
      return w :: ws

/-- The words of a text, one line each. -/
def assembleText (cs : List Char) : Except AsmRefusal (List CmdWord) := assembleLines (splitAtChar '\n' cs)

/-- How the host runs a list of words: each is issued after the previous one completed, and its response read
(92_eei_decisions.md D24). -/
def turnsOfWords : List CmdWord → List Turn
  | [] => []
  | w :: ws => .offer w :: .complete :: .read :: turnsOfWords ws

end Sys2Proof.Machine
end

