-- ==== Sys2Proof/Machine/Bank.lean ====
section
/-! DEFINITION. Several cores side by side, sharing no state (10_state.md R29; notes/assumptions/16.md). -/

namespace Sys2Proof.Machine

/-- One step of core `n` of a bank: it steps on its own state, and the others keep theirs. Where there is no core
`n` nothing moves. -/
def stepBank : Nat → List State → Host.Outcome (List State) Fault Refusal
  | _, [] => .next []
  | 0, s :: rest =>
    match step s with
    | .next t => .next (t :: rest)
    | .fault f => .fault f
    | .refused r => .refused r
  | n + 1, s :: rest =>
    match stepBank n rest with
    | .next rest' => .next (s :: rest')
    | .fault f => .fault f
    | .refused r => .refused r

end Sys2Proof.Machine
end

