-- ==== Sys2Proof/Safety.lean ====
section
/-! DEFINITION. What the statements are in terms of: the invariant of the interface state (10_state.md R19 to R23,
R27), the launch premise (70_reset_and_hazards.md R96), the response a word gives (20_memory.md R35), the host's
protocol (70_reset_and_hazards.md R98, R100) and the end of a run (92_eei_decisions.md D24). -/

namespace Sys2Proof.Machine

/-- The vector `v[i1] ++ v[i2] ++ …` of the bits of `v` at the listed indices, the first listed in the most
significant place (00_scope.md R11): the form in which the spec writes its derived bit selections. -/
def pickBits (n : Nat) {m : Nat} (v : BitVec m) (indices : List Nat) : BitVec n :=
  ofBits fun i : Fin n => v.getLsbD (indices.getD (n - 1 - i) 0)

/-- The three result fields hold NONE (10_state.md R21). -/
def NoResults (s : State) : Prop := s.rspData = none ∧ s.rspK1 = none ∧ s.rspK2 = none

/-- What holds of the interface between any two steps. -/
structure Inv (s : State) : Prop where
  /-- A word is in flight exactly while BUSY is 1 (10_state.md R19, R20). -/
  pendWhileBusy : s.pend.isSome = s.busy
  /-- No response while a command is in flight: Issue wrote RSP_VALID 0 (R21). -/
  noResponseInFlight : s.busy = true → s.rspValid = false
  /-- "When RSP_VALID = 0, all of RSP_DATA, RSP_K1 and RSP_K2 are NONE and RSP_ERR = 0" (R21). -/
  clearWhenInvalid : s.rspValid = false → NoResults s ∧ s.rspErr = false
  /-- "An illegal command leaves all three at NONE" (R23). -/
  noResultOnError : s.rspErr = true → NoResults s
  /-- A legal command's response holds a block or the two subkeys, never both (R23). -/
  blockOrSubkeys : s.rspValid = true → s.rspErr = false → s.rspData.isSome = !s.rspK1.isSome
  /-- The two subkeys come together (R27). -/
  subkeysTogether : s.rspK1.isSome = s.rspK2.isSome
  /-- While `rst` is held the core is idle with nothing to show (70_reset_and_hazards.md R95). -/
  idleInReset : s.rst = true → s.busy = false ∧ s.rspValid = false

/-- The elements of 10_state.md R18 hold their values of R28: the launch premise of 70_reset_and_hazards.md R96. -/
def LaunchedAfterReset (s : State) : Prop := resetCore s = s

/-- The response cleared, as `Issue` leaves it (44_cipher_commands.md R74). -/
def ResponseCleared (s : State) : Prop := s.rspValid = false ∧ s.rspErr = false ∧ NoResults s

/-- The response elements of 10_state.md R18. -/
structure Response where
  valid : Bool
  err : Bool
  data : Option Block
  k1 : Option Subkey
  k2 : Option Subkey
deriving DecidableEq, Repr

/-- The response a state shows. -/
def responseOf (s : State) : Response := ⟨s.rspValid, s.rspErr, s.rspData, s.rspK1, s.rspK2⟩

/-- The response the word `w` gives, by its op field (44_cipher_commands.md R75, R79 to R81, 60_exceptions.md R85). -/
def responseTo (w : CmdWord) : Response :=
  if opField w = 0b00#2 then ⟨true, false, some (encrypt sdesTables (dataField w) (keyField w)), none, none⟩
  else if opField w = 0b01#2 then ⟨true, false, some (decrypt sdesTables (dataField w) (keyField w)), none, none⟩
  else if opField w = 0b10#2 then
    ⟨true, false, none, some (keySched sdesTables (keyField w)).1, some (keySched sdesTables (keyField w)).2⟩
  else ⟨true, true, none, none, none⟩

/-- The elements of 10_state.md R18 that the core holds, apart from the host and the input ports. -/
structure CoreElements where
  busy : Bool
  pend : Option CmdWord
  response : Response
deriving DecidableEq, Repr

/-- The seven elements of R18. -/
def coreOf (s : State) : CoreElements := ⟨s.busy, s.pend, responseOf s⟩

/-- A turn that neither resets the core nor completes a command, and cannot fault. -/
def Turn.isQuiet : Turn → Bool
  | .offer _ => true
  | .accept => true
  | .withdraw => true
  | .submit _ => true
  | .read => true
  | .useField _ => false
  | .reset _ => false
  | .releaseRst => true
  | .complete => false

/-- The host keeps a held command on the port (70_reset_and_hazards.md R100): it neither withdraws it nor changes its
word. -/
def Turn.keepsOffer (w : CmdWord) : Turn → Prop
  | .offer v => v = w
  | .accept => True
  | .withdraw => False
  | .submit r => requestFailures r = [] → requestWord r = w
  | .read => True
  | .useField _ => True
  | .reset _ => True
  | .releaseRst => True
  | .complete => True

/-- The end of a run (92_eei_decisions.md D24): nothing is left to do, no command is in flight or held, and the host
has read the response that stands. -/
def RunEnded (s : State) : Prop :=
  s.turns = [] ∧ s.busy = false ∧ s.offer = none ∧ s.hostSample = some (sample s)

end Sys2Proof.Machine
end

