-- ==== Sys2Proof/WellFormed.lean ====
section
/-! DEFINITION. What is well formed: a command (always, 60_exceptions.md R86) and a table record (00_scope.md R9,
40_permutation_unit.md R52, R55, 41_sbox.md R62, 93_implementation_defined.md U1). -/

namespace Sys2Proof

/-- Every operand lies in its field's range (30_encoding.md R38). It holds of every command, because operands are
typed by width: "Every `bits(8)` block and every `bits(10)` key is well formed" (60_exceptions.md R86). -/
def Instr.wellFormed : Instr → Bool
  | .enc d k => d.toNat < 2 ^ 8 && k.toNat < 2 ^ 10
  | .dec d k => d.toNat < 2 ^ 8 && k.toNat < 2 ^ 10
  | .keygen k => k.toNat < 2 ^ 10

/-- A table record as plain lists, before any check. -/
structure RawTables where
  p10 : List Nat
  p8 : List Nat
  ip : List Nat
  ipi : List Nat
  ep : List Nat
  p4 : List Nat
  s0 : List (List Nat)
  s1 : List (List Nat)
deriving DecidableEq, Repr

/-- The eight tables' names, for a refusal. -/
inductive TableName where
  | p10 | p8 | ip | ipi | ep | p4 | s0 | s1
deriving DecidableEq, Repr

/-- Why a table record is refused. -/
inductive TableRefusal where
  /-- The number of entries, rows or columns is not the one of 40_permutation_unit.md R55 or 41_sbox.md R59. -/
  | wrongShape (t : TableName)
  /-- An entry lies outside its range (40_permutation_unit.md R47, 41_sbox.md R62). -/
  | outOfRange (t : TableName)
  /-- IP and IPI are not mutually inverse (40_permutation_unit.md R52). -/
  | notInverse
deriving DecidableEq, Repr

/-- Check one permutation table of `M` entries over width `N`. DESIGN CHOICE (notes/assumptions/19.md): the shape is
judged before the range. -/
def PermTable.check (N M : Nat) (t : TableName) (l : List Nat) : Except TableRefusal (PermTable N M) :=
  if hs : l.length = M then
    if hr : ∀ e ∈ l, 1 ≤ e ∧ e ≤ N then .ok ⟨l, hs, hr⟩ else .error (.outOfRange t)
  else .error (.wrongShape t)

/-- Check one S-box. DESIGN CHOICE (notes/assumptions/19.md): the shape is judged before the range. -/
def SBox.check (t : TableName) (l : List (List Nat)) : Except TableRefusal SBox :=
  if hs : l.length = 4 ∧ ∀ r ∈ l, r.length = 4 then
    if hr : ∀ r ∈ l, ∀ e ∈ r, e ≤ 3 then .ok ⟨l, hs, hr⟩ else .error (.outOfRange t)
  else .error (.wrongShape t)

/-- Check a whole record: it "must reject the record, not index past the end" (93_implementation_defined.md U1).
DESIGN CHOICE (notes/assumptions/19.md): of several failing checks the first one's reason is reported, the tables in
the order of the record and the mutual inverse of IP and IPI last. -/
def RawTables.check (r : RawTables) : Except TableRefusal SdesTables := do
  let p10 ← PermTable.check 10 10 .p10 r.p10
  let p8 ← PermTable.check 10 8 .p8 r.p8
  let ip ← PermTable.check 8 8 .ip r.ip
  let ipi ← PermTable.check 8 8 .ipi r.ipi
  let ep ← PermTable.check 4 8 .ep r.ep
  let p4 ← PermTable.check 4 4 .p4 r.p4
  let s0 ← SBox.check .s0 r.s0
  let s1 ← SBox.check .s1 r.s1
  if h : UndoesEntries ipi.entries ip.entries ∧ UndoesEntries ip.entries ipi.entries then
    return ⟨p10, p8, ip, ipi, ep, p4, s0, s1, h.1, h.2⟩
  else
    throw .notInverse

/-- The record passes every check. -/
def RawTables.wellFormed (r : RawTables) : Bool :=
  match r.check with
  | .ok _ => true
  | .error _ => false

end Sys2Proof
end

