-- ==== Sys2Proof/Certificates/Slice0/Obligations.lean ====
section
/-! DEFINITION. The statements for the provers. Each docstring names the rule of spec/ it formalises. -/

open Sys2Proof Sys2Proof.Machine

/-! ### Encoding -/

/-- 30_encoding.md R39: the operands are `key = w[17:8]` and `data = w[7:0]`, unchanged, for each command the op field
selects (section 3, op map; section 4 for the reserved value). -/
def Obligations.WordDecodesByOpFieldAlone : Prop :=
  ∀ w : CmdWord,
    (w.extractLsb' 18 2 = 0b00#2 → decode w = .ok (.enc (w.extractLsb' 0 8) (w.extractLsb' 8 10))) ∧
    (w.extractLsb' 18 2 = 0b01#2 → decode w = .ok (.dec (w.extractLsb' 0 8) (w.extractLsb' 8 10))) ∧
    (w.extractLsb' 18 2 = 0b10#2 → decode w = .ok (.keygen (w.extractLsb' 8 10))) ∧
    (w.extractLsb' 18 2 = 0b11#2 → decode w = .error (.illegalCommand 0b11#2))

/-- Every command is what its encoding decodes to, and encoding what a word decodes to gives the word back, KEYGEN's
ignored bits written as 0 (30_encoding.md R41, R43, R46). -/
def Obligations.DecodeAndEncodeAgree : Prop :=
  (∀ i : Instr, decode (encode i) = .ok i) ∧
  (∀ (w : CmdWord) (i : Instr), decode w = .ok i →
    encode i = if opField w = 0b10#2 then w &&& 0xFFF00#20 else w)

/-- 30_encoding.md R46: the number each form encodes as and the word the assembler emits for it, `.cmd` included,
which a value of 2^20 or more is too large for (R45), and the worked example. What value hexadecimal digits have is in
`AssemblerReadsExactLiterals`. -/
def Obligations.EncodedWordsAsNumbers : Prop :=
  (∀ (d : Block) (k : Key), encode (.enc d k) = (0b00#2 ++ k ++ d : BitVec 20) ∧
    (encode (.enc d k)).toNat = ((k.toNat <<< 8) ||| d.toNat)) ∧
  (∀ (d : Block) (k : Key), encode (.dec d k) = (0b01#2 ++ k ++ d : BitVec 20) ∧
    (encode (.dec d k)).toNat = (0x40000 ||| (k.toNat <<< 8) ||| d.toNat)) ∧
  (∀ k : Key, encode (.keygen k) = (0b10#2 ++ k ++ 0b00000000#8 : BitVec 20) ∧
    (encode (.keygen k)).toNat = (0x80000 ||| (k.toNat <<< 8))) ∧
  (∀ (ds ks : List Char) (d : Block) (k : Key), literal 8 ds = .ok d → literal 10 ks = .ok k →
    assembleLine (.enc ds ks) = .ok (0b00#2 ++ k ++ d : BitVec 20) ∧
    assembleLine (.dec ds ks) = .ok (0b01#2 ++ k ++ d : BitVec 20) ∧
    assembleLine (.keygen ks) = .ok (0b10#2 ++ k ++ 0b00000000#8 : BitVec 20)) ∧
  (∀ (c : Char) (cs : List Char) (x : Nat), hexDigits 0 (c :: cs) = some x →
    (x < 2 ^ 20 → ∃ w : CmdWord, assembleLine (.cmd ('0' :: 'x' :: c :: cs)) = .ok w ∧ w.toNat = x) ∧
    (2 ^ 20 ≤ x → assembleLine (.cmd ('0' :: 'x' :: c :: cs)) = .error .hexTooLarge)) ∧
  encode (.enc 0b11010111#8 0b1010000010#10) = 0x282D7#20

/-- The op map of 30_encoding.md R40: every word lies in exactly one of the four mask and match rows, and the row
says what it decodes to. -/
def Obligations.OpcodeRowsPartitionTheWords : Prop :=
  ∀ w : CmdWord,
    (∃ r, opcodeRows.filter (fun r => r.covers w) = [r]) ∧
    (w &&& 0xC0000#20 = 0x00000#20 ↔ ∃ d k, decode w = .ok (.enc d k)) ∧
    (w &&& 0xC0000#20 = 0x40000#20 ↔ ∃ d k, decode w = .ok (.dec d k)) ∧
    (w &&& 0xC0000#20 = 0x80000#20 ↔ ∃ k, decode w = .ok (.keygen k)) ∧
    (w &&& 0xC0000#20 = 0xC0000#20 ↔ ∃ r, decode w = .error r)

/-- The nine words of 95_test_vectors.md section 3.8, and the KEYGEN word of section 3.7 with a data field that is
not 0, decode as those tables say (a sanity statement). -/
def Obligations.WorkedWordsDecode : Prop :=
  decode 0b00101000001011010111#20 = .ok (.enc 0xD7#8 0x282#10) ∧
  decode 0b01101000001010101000#20 = .ok (.dec 0xA8#8 0x282#10) ∧
  decode 0b10101000001000000000#20 = .ok (.keygen 0x282#10) ∧
  decode 0b10101000001011111111#20 = .ok (.keygen 0x282#10) ∧
  decode 0b11101000001011010111#20 = .error (.illegalCommand 0b11#2) ∧
  decode 0b11000000000000000000#20 = .error (.illegalCommand 0b11#2) ∧
  decode 0b00111111111111111111#20 = .ok (.enc 0xFF#8 0x3FF#10) ∧
  decode 0b01111111111111111111#20 = .ok (.dec 0xFF#8 0x3FF#10) ∧
  decode 0b10111111111111111111#20 = .ok (.keygen 0x3FF#10) ∧
  decode 0b11111111111111111111#20 = .error (.illegalCommand 0b11#2)

/-- 30_encoding.md R41: KEYGEN's `w[7:0]` is ignored. Words with the KEYGEN match that agree in `w[17:8]` select the
same command, and completing either one has the same outcome in every state. -/
def Obligations.KeygenIgnoresItsDataField : Prop :=
  ∀ w v : CmdWord, w &&& 0xC0000#20 = 0x80000#20 → v &&& 0xC0000#20 = 0x80000#20 →
    w.extractLsb' 8 10 = v.extractLsb' 8 10 →
    decode w = .ok (.keygen (w.extractLsb' 8 10)) ∧ decode v = decode w ∧
    ∀ s : State, completeWord v s = completeWord w s

/-- Literals of 30_encoding.md R45: a binary literal of exactly `n` digits is read as its bits, MSB first; one with
another number of digits or a non-binary digit, and a hexadecimal literal too large for its field, is refused. The
base-16 digits of a number, after any zeros and in either letter case, have that number as their value; a literal
with another character after `0x` is refused. (The letter cases are the model's choice: notes/assumptions/13.md.) -/
def Obligations.AssemblerReadsExactLiterals : Prop :=
  (∀ (n : Nat) (v : BitVec n), literal n ('0' :: 'b' :: charsOfBits v) = .ok v) ∧
  (∀ (n : Nat) (ds : List Char), ds.length ≠ n ∨ (∃ c ∈ ds, c ≠ '0' ∧ c ≠ '1') →
    ∃ r, literal n ('0' :: 'b' :: ds) = .error r) ∧
  (∀ (n x : Nat) (c : Char) (cs : List Char), hexDigits 0 (c :: cs) = some x →
    (x < 2 ^ n → ∃ v : BitVec n, literal n ('0' :: 'x' :: c :: cs) = .ok v ∧ v.toNat = x) ∧
    (2 ^ n ≤ x → literal n ('0' :: 'x' :: c :: cs) = .error .hexTooLarge)) ∧
  (∀ zeros x : Nat, hexDigits 0 (List.replicate zeros '0' ++ Nat.toDigits 16 x) = some x) ∧
  (∀ cs : List Char, hexDigits 0 (cs.map Char.toUpper) = hexDigits 0 cs) ∧
  (∀ (n : Nat) (cs : List Char), (∃ c ∈ cs, c ∉ "0123456789abcdefABCDEF".toList) →
    ∃ r, literal n ('0' :: 'x' :: cs) = .error r)

/-! ### The datapath -/

/-- The permutation of 40_permutation_unit.md R47 in the index form the spec derives (00_scope.md R12), over every
table: `out[M-i] = in[N-T[i]]`, each index being one of the input's; and the rule's example, whose table P4 is general
knowledge (notes/assumptions/1.md). -/
def Obligations.PermuteTakesTheTablesPositions : Prop :=
  (∀ (N M : Nat) (T : PermTable N M) (v : BitVec N) (i : Nat), 1 ≤ i → i ≤ M →
    N - T.entries.getD (i - 1) 0 < N ∧
    (permute v T).getLsbD (M - i) = v.getLsbD (N - T.entries.getD (i - 1) 0)) ∧
  permute 0b0111#4 tableP4 = 0b1110#4

/-- The shapes the spec derives for its tables (40_permutation_unit.md R55, under the general-knowledge values of
notes/assumptions/1.md): the shape of each table: its number of entries, their range, and its position
property. -/
def Obligations.TablesHaveTheirShapes : Prop :=
  (tableP10.entries.Perm [1, 2, 3, 4, 5, 6, 7, 8, 9, 10]) ∧
  (tableP8.entries.Perm [3, 4, 5, 6, 7, 8, 9, 10]) ∧
  (tableIP.entries.Perm [1, 2, 3, 4, 5, 6, 7, 8]) ∧
  (tableIPI.entries.Perm [1, 2, 3, 4, 5, 6, 7, 8]) ∧
  (∀ j < 8, tableIPI.entries.getD (tableIP.entries.getD j 0 - 1) 0 = j + 1) ∧
  (tableEP.entries.Perm [1, 1, 2, 2, 3, 3, 4, 4]) ∧
  (tableP4.entries.Perm [1, 2, 3, 4])

/-- The bit form the spec derives for each table (pseudocode of 40_permutation_unit.md R48 to R51, R53, R54), under the
table values of `sdesTables` (general knowledge: notes/assumptions/1.md). -/
def Obligations.TablesGiveTheSpecsBitForms : Prop :=
  (∀ k : BitVec 10, permP10 sdesTables k =
    pickBits 10 k [7, 5, 8, 3, 6, 0, 9, 1, 2, 4]) ∧
  (∀ v : BitVec 10, permP8 sdesTables v =
    pickBits 8 v [4, 7, 3, 6, 2, 5, 0, 1]) ∧
  (∀ x : BitVec 8, permIP sdesTables x =
    pickBits 8 x [6, 2, 5, 7, 4, 0, 3, 1]) ∧
  (∀ x : BitVec 8, permIPI sdesTables x =
    pickBits 8 x [4, 7, 5, 3, 1, 6, 0, 2]) ∧
  (∀ r : BitVec 4, permEP sdesTables r =
    pickBits 8 r [0, 3, 2, 1, 2, 1, 0, 3]) ∧
  (∀ s : BitVec 4, permP4 sdesTables s = pickBits 4 s [2, 0, 1, 3])

/-- The inverses the spec derives (40_permutation_unit.md R52, its second direction inferred from the first), for every
table record: IP and IPI undo each other on every block. -/
def Obligations.IpAndIpiAreInverse : Prop :=
  ∀ (T : SdesTables) (x : Block), permIPI T (permIP T x) = x ∧ permIP T (permIPI T x) = x

/-- 40_permutation_unit.md R56, for every width and count: where each string position goes, that the count is taken
modulo the width, and that rotations add up. -/
def Obligations.RotationMovesPositionsLeft : Prop :=
  ∀ (N : Nat) (v : BitVec N),
    (∀ n p, 1 ≤ p → p ≤ N →
      (rotl v n).getLsbD (N - (((p + N - 1 - n % N) % N) + 1)) = v.getLsbD (N - p)) ∧
    (∀ n, rotl v n = rotl v (n % N)) ∧ rotl v 0 = v ∧ rotl v N = v ∧
    (∀ a b, rotl (rotl v a) b = rotl v (a + b))

/-- 41_sbox.md R62, for every S-box: the lookup is the cell at the row of the outer bits and the column of the
inner bits, it loses nothing in two bits, and different inputs address different cells. -/
def Obligations.SboxLookupReadsItsCell : Prop :=
  ∀ (S : SBox) (x : BitVec 4),
    sboxRow x = 2 * x[3].toNat + x[0].toNat ∧ sboxCol x = 2 * x[2].toNat + x[1].toNat ∧
    (sbox x S).toNat = (S.rows.getD (sboxRow x) []).getD (sboxCol x) 0 ∧ (sbox x S).toNat ≤ 3 ∧
    ∀ y : BitVec 4, sboxRow y = sboxRow x → sboxCol y = sboxCol x → y = x

/-- The flat table the spec derives (41_sbox.md R63, under the general-knowledge values of notes/assumptions/1.md): both
S-boxes on all 16 inputs, `(S0 out, S1 out)` in the order of the inputs. -/
def Obligations.SboxesMatchTheFlatTable : Prop :=
  ((List.range 16).map fun n => (sbox (BitVec.ofNat 4 n) tableS0, sbox (BitVec.ofNat 4 n) tableS1)) =
    [(0b01#2, 0b00#2), (0b11#2, 0b10#2), (0b00#2, 0b01#2), (0b10#2, 0b00#2),
     (0b11#2, 0b10#2), (0b01#2, 0b01#2), (0b10#2, 0b11#2), (0b00#2, 0b11#2),
     (0b00#2, 0b11#2), (0b11#2, 0b10#2), (0b10#2, 0b00#2), (0b01#2, 0b01#2),
     (0b01#2, 0b01#2), (0b11#2, 0b00#2), (0b11#2, 0b00#2), (0b10#2, 0b11#2)] ∧
  ((List.range 16).map fun n => (sboxRow (BitVec.ofNat 4 n), sboxCol (BitVec.ofNat 4 n))) =
    [(0, 0), (1, 0), (0, 1), (1, 1), (0, 2), (1, 2), (0, 3), (1, 3),
     (2, 0), (3, 0), (2, 1), (3, 1), (2, 2), (3, 2), (2, 3), (3, 3)]

/-- 42_key_schedule.md R69, for every table record: `L2 = rotl_5(L0, 3)` and `R2 = rotl_5(R0, 3)`, and so K1 is P8 of
both halves rotated by 1, K2 of both halves rotated by 3 from the original. -/
def Obligations.SecondShiftIsCumulative : Prop :=
  ∀ (T : SdesTables) (key : Key),
    rotateHalves (rotateHalves (keyHalves T key) 1) 2 =
      (rotl (left 5 (permP10 T key)) 3, rotl (right 5 (permP10 T key)) 3) ∧
    (keySched T key).1 =
      permP8 T (join (rotl (left 5 (permP10 T key)) 1) (rotl (right 5 (permP10 T key)) 1)) ∧
    (keySched T key).2 =
      permP8 T (join (rotl (left 5 (permP10 T key)) 3) (rotl (right 5 (permP10 T key)) 3))

/-- The bit forms the spec derives for the subkeys (42_key_schedule.md R70, under the general-knowledge table values of
notes/assumptions/1.md): each subkey bit is a key bit, and the key bits each subkey does not depend on. -/
def Obligations.SubkeyBitsAreKeyBits : Prop :=
  (∀ k : Key,
    (keySched sdesTables k).1 =
      pickBits 8 k [9, 3, 1, 6, 2, 7, 0, 4] ∧
    (keySched sdesTables k).2 =
      pickBits 8 k [2, 7, 4, 5, 0, 8, 1, 9]) ∧
  (∀ k m : Key, (∀ i, i ≠ 8 → i ≠ 5 → k.getLsbD i = m.getLsbD i) →
    (keySched sdesTables k).1 = (keySched sdesTables m).1) ∧
  (∀ k m : Key, (∀ i, i ≠ 6 → i ≠ 3 → k.getLsbD i = m.getLsbD i) →
    (keySched sdesTables k).2 = (keySched sdesTables m).2)

/-- The corner case the spec derives for KEYSCHED (42_key_schedule.md R68): under the tables of `sdesTables` different
keys give different subkey pairs. -/
def Obligations.DifferentKeysGiveDifferentSubkeys : Prop :=
  ∀ k m : Key, keySched sdesTables k = keySched sdesTables m → k = m

/-- For every table record fk undoes itself under one subkey (the inference of 43_round_function.md R72), its right half
passes through and its left half is XORed with `P4(SBOXES(EP(R) XOR K))` (R71). -/
def Obligations.RoundFunctionIsAnInvolution : Prop :=
  ∀ (T : SdesTables) (b : Block) (K : Subkey),
    fk T (fk T b K) K = b ∧
    (fk T b K).extractLsb' 0 4 = b.extractLsb' 0 4 ∧
    (fk T b K).extractLsb' 4 4 =
      b.extractLsb' 4 4 ^^^ permP4 T (sboxes T (permEP T (b.extractLsb' 0 4) ^^^ K))

/-- 43_round_function.md R73: SW exchanges the halves, undoes itself, and its 16 fixed points are the blocks with
equal halves. -/
def Obligations.HalfSwapExchangesHalves : Prop :=
  (∀ x : Block, swapHalves x = (x.extractLsb' 0 4 ++ x.extractLsb' 4 4 : BitVec 8) ∧
    swapHalves (swapHalves x) = x ∧ (swapHalves x = x ↔ x.extractLsb' 4 4 = x.extractLsb' 0 4)) ∧
  ((List.range 256).filter fun n => swapHalves (BitVec.ofNat 8 n) == BitVec.ofNat 8 n).length = 16 ∧
  swapHalves 0b00101101#8 = 0b11010010#8

/-- The round trip the spec derives (44_cipher_commands.md R82), for every table record: DECRYPT undoes ENCRYPT and
ENCRYPT undoes DECRYPT. -/
def Obligations.DecryptUndoesEncrypt : Prop :=
  ∀ (T : SdesTables) (b : Block) (key : Key),
    decrypt T (encrypt T b key) key = b ∧ encrypt T (decrypt T b key) key = b

/-- 44_cipher_commands.md R77, R78, for every table record: the six steps, DECRYPT differing in the subkey order
alone. -/
def Obligations.CipherRunsTheSixSteps : Prop :=
  ∀ (T : SdesTables) (b : Block) (key : Key) (K1 K2 : Subkey), keySched T key = (K1, K2) →
    encrypt T b key = permIPI T (fk T (swapHalves (fk T (permIP T b) K1)) K2) ∧
    decrypt T b key = permIPI T (fk T (swapHalves (fk T (permIP T b) K2)) K1)

/-- Vectors of 95_test_vectors.md sections 1.1, 3.4, 3.5 and 3.6, the source's known-answer vector first (a sanity
statement; all but the first two rest on the general-knowledge table values of notes/assumptions/1.md). -/
def Obligations.KnownVectorsHold : Prop :=
  encrypt sdesTables 0b11010111#8 0b1010000010#10 = 0b10101000#8 ∧
  decrypt sdesTables 0b10101000#8 0b1010000010#10 = 0b11010111#8 ∧
  keySched sdesTables 0b1010000010#10 = (0xA4#8, 0x43#8) ∧
  keySched sdesTables 0x31E#10 = (0xE9#8, 0xA7#8) ∧
  keySched sdesTables 0x1FD#10 = (0x5F#8, 0xFC#8) ∧
  fk sdesTables 0b11011101#8 0b10100100#8 = 0b00101101#8 ∧
  fk sdesTables 0b00001000#8 0b00000000#8 = 0b10111000#8 ∧
  encrypt sdesTables 0x72#8 0x282#10 = 0x77#8 ∧
  encrypt sdesTables 0xAA#8 0x1FD#10 = 0x16#8 ∧
  encrypt sdesTables 0xFF#8 0x001#10 = 0xF9#8 ∧
  decrypt sdesTables 0x00#8 0x282#10 = 0xB6#8 ∧
  decrypt sdesTables 0xD7#8 0x282#10 = 0x7C#8

/-- A record that passes the checks is the record that was checked, and every record of the model passes them; one
with an entry outside its table's range does not (93_implementation_defined.md U1, 40_permutation_unit.md R47). -/
def Obligations.TableCheckAcceptsExactlyLegalRecords : Prop :=
  (∀ (r : RawTables) (T : SdesTables), r.check = .ok T ↔
    r = ⟨T.p10.entries, T.p8.entries, T.ip.entries, T.ipi.entries, T.ep.entries, T.p4.entries, T.s0.rows,
      T.s1.rows⟩) ∧
  (∀ (r : RawTables) (t : Nat), t = 0 ∨ 10 < t → t ∈ r.p10 ++ r.p8 → r.wellFormed = false)

/-! ### The commands -/

/-- 44_cipher_commands.md R79: ENC completes in every state with every block and key; it writes RSP_DATA and what
every Complete writes, and nothing else; the corner cases and the example (their values rest on
notes/assumptions/1.md; `exec` is the effect of Complete: notes/assumptions/12.md). -/
def Obligations.EncCompletesWithTheCiphertext : Prop :=
  (∀ (d : Block) (k : Key) (s : State),
    decode (0b00#2 ++ k ++ d : BitVec 20) = .ok (.enc d k) ∧
    exec (.enc d k) s = .next
      { s with rspData := some (encrypt sdesTables d k), rspValid := true, busy := false, pend := none } ∧
    (ResponseCleared s → ∃ t, exec (.enc d k) s = .next t ∧
      responseOf t = ⟨true, false, some (encrypt sdesTables d k), none, none⟩)) ∧
  encrypt sdesTables 0x00#8 0x000#10 = 0xF0#8 ∧ encrypt sdesTables 0xFF#8 0x3FF#10 = 0x0F#8 ∧
  encrypt sdesTables 0x00#8 0x3FF#10 = 0xEB#8 ∧ encrypt sdesTables 0xFF#8 0x000#10 = 0x14#8 ∧
  encrypt sdesTables 0b11010111#8 0b1010000010#10 = 0b10101000#8

/-- 44_cipher_commands.md R80: DEC completes in every state with every block and key; it writes RSP_DATA and what
every Complete writes, and nothing else; the corner cases and the example (their values rest on
notes/assumptions/1.md; `exec` is the effect of Complete: notes/assumptions/12.md). -/
def Obligations.DecCompletesWithThePlaintext : Prop :=
  (∀ (d : Block) (k : Key) (s : State),
    decode (0b01#2 ++ k ++ d : BitVec 20) = .ok (.dec d k) ∧
    exec (.dec d k) s = .next
      { s with rspData := some (decrypt sdesTables d k), rspValid := true, busy := false, pend := none } ∧
    (ResponseCleared s → ∃ t, exec (.dec d k) s = .next t ∧
      responseOf t = ⟨true, false, some (decrypt sdesTables d k), none, none⟩) ∧
    decrypt sdesTables (encrypt sdesTables d k) k = d) ∧
  decrypt sdesTables 0xF0#8 0x000#10 = 0x00#8 ∧
  decrypt sdesTables 0b10101000#8 0b1010000010#10 = 0b11010111#8

/-- 44_cipher_commands.md R81: KEYGEN completes in every state with every key; it writes RSP_K1 and RSP_K2 and what
every Complete writes, and nothing else; its data field is ignored; the corner cases and the example (their values
rest on notes/assumptions/1.md; `exec` is the effect of Complete: notes/assumptions/12.md). -/
def Obligations.KeygenCompletesWithTheSubkeys : Prop :=
  (∀ (k : Key) (s : State),
    (∀ d : Block, decode (0b10#2 ++ k ++ d : BitVec 20) = .ok (.keygen k)) ∧
    exec (.keygen k) s = .next
      { s with
        rspK1 := some (keySched sdesTables k).1, rspK2 := some (keySched sdesTables k).2
        rspValid := true, busy := false, pend := none } ∧
    (ResponseCleared s → ∃ t, exec (.keygen k) s = .next t ∧
      responseOf t = ⟨true, false, none, some (keySched sdesTables k).1, some (keySched sdesTables k).2⟩)) ∧
  keySched sdesTables 0x000#10 = (0x00#8, 0x00#8) ∧ keySched sdesTables 0x3FF#10 = (0xFF#8, 0xFF#8) ∧
  keySched sdesTables 0b1010000010#10 = (0xA4#8, 0x43#8)

/-- 60_exceptions.md R85: completing a word with op 11 takes IllegalCommand: RSP_ERR 1, no result field, cause code
1, then the rest of Complete, and nothing else changes; a word with another op leaves RSP_ERR as it was. -/
def Obligations.ReservedOpRaisesIllegalCommand : Prop :=
  (∀ (s : State) (w : CmdWord) (rest : List Turn),
    s.turns = .complete :: rest → s.busy = true → s.pend = some w → w.extractLsb' 18 2 = 0b11#2 →
    step s = .next { s with rspErr := true, rspValid := true, busy := false, pend := none, turns := rest }) ∧
  (∀ (s : State) (w : CmdWord), ResponseCleared s → w.extractLsb' 18 2 = 0b11#2 →
    ∃ t, completeWord w s = .next t ∧ responseOf t = ⟨true, true, none, none, none⟩ ∧ causeCode t = 1) ∧
  (∀ (s : State) (w : CmdWord), w.extractLsb' 18 2 ≠ 0b11#2 →
    ∃ t, completeWord w s = .next t ∧ t.rspErr = s.rspErr) ∧
  (∀ s : State, causeCode s = 0 ↔ s.rspErr = false)

/-! ### The cycle -/

/-- 44_cipher_commands.md R75: the effect of Complete in one step, by the op field of the word in flight; it is enabled
exactly when BUSY is 1. Fields the case does not write stay as they are, and RSP_ERR is written by the reserved op
alone. That a turn planned for it where BUSY is 0 passes, leaving every element of the core as it was, is the
model's choice (notes/assumptions/3.md). -/
def Obligations.CompleteWritesByOpField : Prop :=
  ∀ (s : State) (w : CmdWord) (rest : List Turn), s.turns = .complete :: rest →
    (s.busy = true → s.pend = some w →
      (w.extractLsb' 18 2 = 0b00#2 → step s = .next
        { s with
          rspData := some (encrypt sdesTables (w.extractLsb' 0 8) (w.extractLsb' 8 10))
          rspValid := true, busy := false, pend := none, turns := rest }) ∧
      (w.extractLsb' 18 2 = 0b01#2 → step s = .next
        { s with
          rspData := some (decrypt sdesTables (w.extractLsb' 0 8) (w.extractLsb' 8 10))
          rspValid := true, busy := false, pend := none, turns := rest }) ∧
      (w.extractLsb' 18 2 = 0b10#2 → step s = .next
        { s with
          rspK1 := some (keySched sdesTables (w.extractLsb' 8 10)).1
          rspK2 := some (keySched sdesTables (w.extractLsb' 8 10)).2
          rspValid := true, busy := false, pend := none, turns := rest }) ∧
      (w.extractLsb' 18 2 = 0b11#2 → step s = .next
        { s with rspErr := true, rspValid := true, busy := false, pend := none, turns := rest })) ∧
    (s.busy = false → ∃ t, step s = .next t ∧ coreOf t = coreOf s)

/-- A step runs the command in flight: where the core has the turn (or none is planned) and BUSY is 1, the step is
`exec` of the command PEND decodes to (44_cipher_commands.md R75). That `exec` is the effect of Complete
(notes/assumptions/12.md), and that the core moves where no turn is planned (notes/assumptions/2.md), are the model's
choices. -/
def Obligations.StepRunsTheCommandInFlight : Prop :=
  ∀ (s : State) (w : CmdWord) (i : Instr), s.busy = true → s.pend = some w → decode w = .ok i →
    (∀ rest, s.turns = .complete :: rest → step s = exec i { s with turns := rest }) ∧
    (s.turns = [] → step s = exec i s)

/-- The host's placing of a command word: the next step runs exactly the command the decoder reads from it, in the
state Issue leaves (44_cipher_commands.md R74; the model's choice: notes/assumptions/11.md). -/
def Obligations.PlacedWordIsRunNext : Prop :=
  ∀ (s : State) (nbits w : Nat) (i : Instr), decodeTableWord nbits w = some i →
    step (s.withFetchWord nbits w) = exec i
      { s with
        busy := true, pend := some (BitVec.ofNat 20 (w % 2 ^ nbits))
        rspValid := false, rspErr := false, rspData := none, rspK1 := none, rspK2 := none }

/-- 44_cipher_commands.md R74: Issue's effect in one step, for every word, reserved ones included, newly offered or
held on the port until an accepting edge (R76, 10_state.md R27); where BUSY is 1 it is not enabled and no element of
the core changes. (`rst` is not held: notes/assumptions/5.md.) That the accepted word leaves the port, that one
offered while BUSY is 1 stays on it until the host withdraws or replaces it (notes/assumptions/4.md), and that an
accepting edge which is not enabled passes (notes/assumptions/3.md), are the model's choices. -/
def Obligations.IssueCapturesTheWord : Prop :=
  ∀ (s : State) (w : CmdWord) (rest : List Turn),
    (s.turns = .offer w :: rest ∨ (s.turns = .accept :: rest ∧ s.offer = some w) →
      s.busy = false → s.rst = false → step s = .next
        { s with
          pend := some w, busy := true, rspValid := false, rspErr := false
          rspData := none, rspK1 := none, rspK2 := none, offer := none, turns := rest }) ∧
    (s.turns = .offer w :: rest → s.busy = true → step s = .next { s with offer := some w, turns := rest }) ∧
    (s.turns = .accept :: rest → s.busy = true → step s = .next { s with turns := rest }) ∧
    (s.turns = .withdraw :: rest → step s = .next { s with offer := none, turns := rest })

/-- A command offered while BUSY is 1 is held on the port, not taken and not lost, and is taken at the first step
after Complete, with no further turn of the host planned (44_cipher_commands.md R76, 70_reset_and_hazards.md R100;
the order of unplanned steps and the end of the offer with its acceptance are the model's choices:
notes/assumptions/2.md, 4.md). -/
def Obligations.HeldCommandIsTakenAfterComplete : Prop :=
  ∀ (s : State) (v w : CmdWord), Inv s → s.busy = true → s.pend = some v → s.turns = [.offer w] →
    ∃ a b c, step s = .next a ∧ coreOf a = coreOf s ∧ a.offer = some w ∧
      step a = .next b ∧ b.busy = false ∧ responseOf b = responseTo v ∧ b.offer = some w ∧
      step b = .next c ∧ c.busy = true ∧ c.pend = some w ∧ c.offer = none

/-- A held command is never lost while the host keeps it on the port: after any turn it is still offered or it is the
command in flight (44_cipher_commands.md R76, 70_reset_and_hazards.md R100). That it stays on the port over a Reset is
deduced (notes/assumptions/15.md); one word on the port (notes/assumptions/4.md), and a passing request being offered
in its own step (notes/assumptions/8.md), are the model's choices. -/
def Obligations.KeptOfferIsNotLost : Prop :=
  ∀ (s t : State) (w : CmdWord), s.offer = some w →
    (∀ u rest, s.turns = u :: rest → u.keepsOffer w) → step s = .next t →
    t.offer = some w ∨ (t.busy = true ∧ t.pend = some w)

/-- The host's reading of the response (10_state.md R24; where the host keeps what it read is the model's choice:
notes/assumptions/6.md; that Read's NOT BUSY does not look at `rst` is deduced: notes/assumptions/5.md): Read changes
no state of the core and returns RSP_VALID, RSP_ERR, NOT BUSY and the result fields that hold a value; using a field
that holds NONE faults with ReadOfNone; validity shows as rsp_dv and rsp_kv; the ports' bits for a NONE field are any
value. -/
def Obligations.ReadSamplesWithoutSideEffect : Prop :=
  (∀ (s : State) (rest : List Turn), s.turns = .read :: rest →
    step s = .next
      { s with
        turns := rest
        hostSample := some ⟨s.rspValid, s.rspErr, !s.busy, s.rspData, s.rspK1, s.rspK2⟩ }) ∧
  (∀ (s : State) (f : RspField) (rest : List Turn), s.turns = .useField f :: rest →
    (∀ v, readField f s = some v → step s = .next { s with turns := rest, hostValue := some v }) ∧
    (readField f s = none → step s = .fault (.readOfNone (.rsp f)))) ∧
  (∀ s : State, readField .data s = s.rspData ∧ readField .k1 s = s.rspK1 ∧ readField .k2 s = s.rspK2) ∧
  (∀ (s : State) (p : RspField → BitVec 8),
    (outPorts p s).rspDv = s.rspData.isSome ∧ (outPorts p s).rspKv = s.rspK1.isSome ∧
    (s.rspData = none → (outPorts p s).rspData = p .data) ∧
    (s.rspK1 = none → (outPorts p s).rspK1 = p .k1) ∧ (s.rspK2 = none → (outPorts p s).rspK2 = p .k2))

/-- The output ports show the state (10_state.md R27; `cmd_ready` in reset: notes/assumptions/5.md), whatever the
unspecified bits are: `cmd_ready` is NOT BUSY outside reset, the validity signals say which data ports carry a field,
and `rsp_kv` stands for both subkeys. -/
def Obligations.PortsShowTheState : Prop :=
  ∀ (s : State) (p : RspField → BitVec 8), Inv s →
    (s.rst = false → (outPorts p s).cmdReady = !s.busy) ∧ (s.rst = true → (outPorts p s).cmdReady = false) ∧
    (outPorts p s).rspValid = s.rspValid ∧ (outPorts p s).rspErr = s.rspErr ∧
    ((outPorts p s).rspDv = true → s.rspData = some (outPorts p s).rspData) ∧
    ((outPorts p s).rspKv = true →
      s.rspK1 = some (outPorts p s).rspK1 ∧ s.rspK2 = some (outPorts p s).rspK2) ∧
    ((outPorts p s).rspKv = false → s.rspK1 = none ∧ s.rspK2 = none) ∧
    ((outPorts p s).rspValid = false → (outPorts p s).rspDv = false ∧ (outPorts p s).rspKv = false)

/-- 70_reset_and_hazards.md R95: Reset in every state gives every element of 10_state.md R18 its reset value in one
step, a command in flight being discarded; while `rst` is held no command is accepted, whichever turn comes or where
none is planned, and the core stays as it is; once `rst` is released the first Issue, of a new or a held word, may
come at once (the taking of a held word where no turn is planned is the model's choice: notes/assumptions/2.md). That
the other input ports and the host's own fields stay, and that the level of `rst` afterwards is the turn's argument,
is deduced (notes/assumptions/15.md); that a turn which is not enabled passes, and an offer then waits on the port, is
the model's choice (notes/assumptions/3.md, 4.md), and so is that a request is offered in its own step where it passes
and that the run goes on where it is refused (notes/assumptions/8.md). -/
def Obligations.ResetWorksInEveryState : Prop :=
  (∀ (s : State) (held : Bool) (rest : List Turn), s.turns = .reset held :: rest →
    step s = .next
      { s with
        busy := false, pend := none, rspValid := false, rspErr := false
        rspData := none, rspK1 := none, rspK2 := none, rst := held, turns := rest }) ∧
  (∀ (s : State) (w : CmdWord) (p : RspField → BitVec 8), s.rst = true →
    (outPorts p s).cmdReady = false ∧
    (∀ rest, s.turns = .offer w :: rest → ∃ t, step s = .next t ∧ coreOf t = coreOf s) ∧
    (∀ rest, s.turns = .accept :: rest → ∃ t, step s = .next t ∧ coreOf t = coreOf s) ∧
    (∀ r rest, s.turns = .submit r :: rest → ∃ t, step s = .next t ∧ coreOf t = coreOf s) ∧
    (s.turns = [] → s.busy = false → ∃ t, step s = .next t ∧ coreOf t = coreOf s)) ∧
  (∀ s t : State, Inv s → s.rst = true → step s = .next t →
    coreOf t = coreOf s ∨ ∃ held rest, s.turns = .reset held :: rest) ∧
  (∀ (s : State) (rest : List Turn), s.turns = .releaseRst :: rest →
    step s = .next { s with rst := false, turns := rest }) ∧
  (∀ (s : State) (w : CmdWord) (next rest : List Turn),
    s.turns = .reset false :: next ∨ (s.busy = false ∧ s.turns = .releaseRst :: next) →
    next = .offer w :: rest ∨ (s.offer = some w ∧ (next = .accept :: rest ∨ next = [])) →
    ∃ t u, step s = .next t ∧ t.rst = false ∧ step t = .next u ∧ u.busy = true ∧ u.pend = some w)

/-- 10_state.md R28: the state after Reset. -/
def Obligations.ResetStateHoldsItsValues : Prop :=
  State.reset.busy = false ∧ State.reset.pend = none ∧ State.reset.rspValid = false ∧
  State.reset.rspErr = false ∧ State.reset.rspData = none ∧ State.reset.rspK1 = none ∧
  State.reset.rspK2 = none ∧ LaunchedAfterReset State.reset

/-! ### The whole machine -/

/-- The invariant of 10_state.md R19 to R23 and R27 holds at reset. -/
def Obligations.ResetStateMeetsTheInterfaceLaws : Prop := Inv State.reset

/-- Every step of either agent keeps the invariant of 10_state.md R19 to R23 and R27 (interleaving:
notes/assumptions/2.md, 3.md), from every state that meets it. -/
def Obligations.EveryStepKeepsTheInterfaceLaws : Prop :=
  ∀ s t : State, Inv s → step s = .next t → Inv t

/-- No step is refused, and the only fault is ReadOfNone, raised exactly where the host uses a response field that
holds NONE (60_exceptions.md R86, 10_state.md R24): the core itself never stops. That a turn which is not enabled
passes (notes/assumptions/3.md), and that the run goes on after the adapter refuses a malformed request, the refusal
being kept in `hostRefusal` (notes/assumptions/8.md), are the model's choices. -/
def Obligations.OnlyUsingNoneStopsARun : Prop :=
  ∀ s : State, Inv s →
    (∀ r, step s ≠ .refused r) ∧
    (∀ f, step s = .fault f ↔
      ∃ g rest, s.turns = .useField g :: rest ∧ readField g s = none ∧ f = .readOfNone (.rsp g))

/-- The purity the spec derives (44_cipher_commands.md R83): two cores completing the same word give the same
response, whatever else their states hold; and it is the response of that word. -/
def Obligations.ResponseDependsOnlyOnTheWord : Prop :=
  ∀ (s t : State) (w : CmdWord) (r1 r2 : List Turn), Inv s → Inv t →
    s.busy = true → t.busy = true → s.pend = some w → t.pend = some w →
    s.turns = .complete :: r1 → t.turns = .complete :: r2 →
    ∃ s' t', step s = .next s' ∧ step t = .next t' ∧
      responseOf s' = responseTo w ∧ responseOf t' = responseTo w

/-- A command in flight completes with the response of the word captured at Issue, whatever the host does meanwhile
short of a Reset and of using a response field, which faults while a command is in flight (10_state.md R20, R24,
20_memory.md R35, 44_cipher_commands.md R76): any number of offers, changed words, accepting edges, withdrawals,
requests, reads and releases of `rst`, then the core's turn. (That turns which are not enabled pass, that the host may
change a held word, and that a request is offered at once or refused while the run goes on are the model's choices:
notes/assumptions/3.md, 4.md, 8.md.) -/
def Obligations.CapturedCommandCompletesAfterQuietHostTurns : Prop :=
  ∀ (s : State) (w : CmdWord) (quiet rest : List Turn), Inv s → s.busy = true → s.pend = some w →
    (∀ t ∈ quiet, t.isQuiet = true) → s.turns = quiet ++ .complete :: rest →
    ∃ t : State, core.run (quiet.length + 1) s = .next t ∧ responseOf t = responseTo w ∧
      t.busy = false ∧ t.pend = none ∧ t.turns = rest

/-- A response's lifetime (20_memory.md R35, and the inference of 70_reset_and_hazards.md R99): a response stays as it
is until the next Issue or Reset, and each of those clears it: a state with a command in flight after one without, and
the state after a reset turn, show no response. -/
def Obligations.ResponseLastsUntilIssueOrReset : Prop :=
  ∀ s t : State, Inv s → s.rspValid = true → step s = .next t →
    (responseOf t = responseOf s ∨
      (s.busy = false ∧ t.busy = true) ∨ ∃ held rest, s.turns = .reset held :: rest) ∧
    (s.busy = false → t.busy = true → ResponseCleared t) ∧
    (∀ held rest, s.turns = .reset held :: rest → ResponseCleared t)

/-- KEYGEN configures no later command (10_state.md R26, 70_reset_and_hazards.md R101): an ENC issued and completed
after any KEYGEN gives the ciphertext under its own key. -/
def Obligations.KeygenConfiguresNothing : Prop :=
  ∀ (s : State) (k1 k2 : Key) (p : Block) (rest : List Turn), Inv s → s.busy = false → s.rst = false →
    s.turns = .offer (encode (.keygen k1)) :: .complete :: .offer (encode (.enc p k2)) :: .complete :: rest →
    ∃ t u : State, core.run 2 s = .next t ∧
      t.rspK1 = some (keySched sdesTables k1).1 ∧ t.rspK2 = some (keySched sdesTables k1).2 ∧
      core.run 4 s = .next u ∧ responseOf u = ⟨true, false, some (encrypt sdesTables p k2), none, none⟩

/-- The round trip of 44_cipher_commands.md R82 through the machine: an ENC issued and completed, then a DEC of its
response under the same key, gives the block back, from every idle state. -/
def Obligations.DecOfTheCiphertextRestoresTheBlock : Prop :=
  ∀ (s : State) (p c : Block) (k : Key) (rest : List Turn), Inv s → s.busy = false → s.rst = false →
    c = encrypt sdesTables p k →
    s.turns = .offer (encode (.enc p k)) :: .complete :: .offer (encode (.dec c k)) :: .complete :: rest →
    ∃ t u : State, core.run 2 s = .next t ∧ t.rspData = some c ∧
      core.run 4 s = .next u ∧ u.rspData = some p ∧ u.rspErr = false ∧ u.rspValid = true

/-- The host boundary (60_exceptions.md R87; a valid request is offered at once: notes/assumptions/8.md): a request
passes the adapter exactly where its strings have their lengths and only binary characters; then character i drives
string position i of the operand, and the command of the request is issued; in every state the request then does what
offering the word of its command does. -/
def Obligations.AdapterIssuesValidStrings : Prop :=
  (∀ block key : List Char, requestFailures (.encrypt block key) = [] ↔
    (block.length = 8 ∧ ∀ c ∈ block, c = '0' ∨ c = '1') ∧ key.length = 10 ∧ ∀ c ∈ key, c = '0' ∨ c = '1') ∧
  (∀ key : List Char, requestFailures (.generateSubkeys key) = [] ↔
    key.length = 10 ∧ ∀ c ∈ key, c = '0' ∨ c = '1') ∧
  (∀ block key, requestFailures (.decrypt block key) = requestFailures (.encrypt block key)) ∧
  (∀ (n : Nat) (cs : List Char) (i : Nat), cs.length = n → 1 ≤ i → i ≤ n →
    (bitsOfChars n cs).getLsbD (n - i) = (cs.getD (i - 1) '0' == '1')) ∧
  (∀ (s : State) (r : StringRequest) (rest : List Turn), s.turns = .submit r :: rest →
    requestFailures r = [] → s.busy = false → s.rst = false →
    ∃ t w, step s = .next t ∧ t.busy = true ∧ t.pend = some w ∧
      decode w = .ok (match r with
        | .encrypt b k => .enc (bitsOfChars 8 b) (bitsOfChars 10 k)
        | .decrypt b k => .dec (bitsOfChars 8 b) (bitsOfChars 10 k)
        | .generateSubkeys k => .keygen (bitsOfChars 10 k))) ∧
  (∀ (s : State) (r : StringRequest) (rest : List Turn), s.turns = .submit r :: rest → requestFailures r = [] →
    step s = step { s with
      turns := .offer (encode (match r with
        | .encrypt b k => .enc (bitsOfChars 8 b) (bitsOfChars 10 k)
        | .decrypt b k => .dec (bitsOfChars 8 b) (bitsOfChars 10 k)
        | .generateSubkeys k => .keygen (bitsOfChars 10 k))) :: rest })

/-- A malformed request issues no command and changes nothing of the core or its ports; the adapter reports one of
the checks that failed, whichever the free value picks (60_exceptions.md R87, R88): InvalidLength of an argument is
among them exactly where its string has the wrong length, InvalidCharacter exactly where it has a character other than
0 and 1. That a check is a pair of a reason
and an argument, that the refusal is kept in `hostRefusal` and that the run goes on are the model's choices
(notes/assumptions/8.md). -/
def Obligations.AdapterRefusesMalformedStrings : Prop :=
  (∀ (s : State) (r : StringRequest) (rest : List Turn), s.turns = .submit r :: rest → requestFailures r ≠ [] →
    ∃ t reason, step s = .next t ∧ coreOf t = coreOf s ∧ t.offer = s.offer ∧ t.rst = s.rst ∧ t.turns = rest ∧
      t.hostRefusal = some reason ∧ reason ∈ requestFailures r) ∧
  (∀ (block key : List Char) (r : StringRequest), r = .encrypt block key ∨ r = .decrypt block key →
    (.invalidLength .block ∈ requestFailures r ↔ block.length ≠ 8) ∧
    (.invalidCharacter .block ∈ requestFailures r ↔ ∃ c ∈ block, c ≠ '0' ∧ c ≠ '1') ∧
    (.invalidLength .key ∈ requestFailures r ↔ key.length ≠ 10) ∧
    (.invalidCharacter .key ∈ requestFailures r ↔ ∃ c ∈ key, c ≠ '0' ∧ c ≠ '1')) ∧
  (∀ (key : List Char) (f : HostRefusal), f ∈ requestFailures (.generateSubkeys key) ↔
    (f = .invalidLength .key ∧ key.length ≠ 10) ∨
    (f = .invalidCharacter .key ∧ ∃ c ∈ key, c ≠ '0' ∧ c ≠ '1'))

/-- Instances share no state (10_state.md R29; the bank is the model's own: notes/assumptions/16.md). A step of one
core of a bank is that core's own step, and every other core keeps its state. -/
def Obligations.InstancesShareNothing : Prop :=
  ∀ (bank : List State) (n : Nat) (s : State), bank[n]? = some s →
    (∀ t, step s = .next t → ∃ bank', stepBank n bank = .next bank' ∧ bank'[n]? = some t) ∧
    (∀ bank', stepBank n bank = .next bank' →
      bank'.length = bank.length ∧ ∀ m, m ≠ n → bank'[m]? = bank[m]?)

/-- Assembler text (30_encoding.md R45; blanks, lines and their layout are the model's choice: notes/assumptions/13.md,
18.md): each form is read with its operands in the order data, key, a comment from `;` on and blanks being no part of
it; a line of blanks or a comment is no command; a line with a malformed operand is refused; the words of a text are
those of its lines in order, and a text with a refused line is refused. -/
def Obligations.AssemblerReadsLinesAndTexts : Prop :=
  (∀ gap sp post d k tail : List Char,
    gap ≠ [] → (∀ c ∈ gap ++ sp ++ post, isBlank c = true) → d ≠ [] → k ≠ [] →
    (∀ c ∈ d ++ k, isBlank c = false ∧ c ≠ ',' ∧ c ≠ ';') → (tail = [] ∨ ∃ x, tail = ';' :: x) →
    parseLine (['E', 'N', 'C'] ++ gap ++ d ++ ',' :: (sp ++ k ++ post ++ tail)) = .ok (some (.enc d k)) ∧
    parseLine (['D', 'E', 'C'] ++ gap ++ d ++ ',' :: (sp ++ k ++ post ++ tail)) = .ok (some (.dec d k)) ∧
    parseLine (['K', 'E', 'Y', 'G', 'E', 'N'] ++ gap ++ (k ++ post ++ tail)) = .ok (some (.keygen k)) ∧
    parseLine (['.', 'c', 'm', 'd'] ++ gap ++ (k ++ post ++ tail)) = .ok (some (.cmd k)) ∧
    parseLine (gap ++ tail) = .ok none ∧ parseLine tail = .ok none) ∧
  (∀ ds ks : List Char, (∃ r, literal 8 ds = .error r) ∨ (∃ r, literal 10 ks = .error r) →
    (∃ r, assembleLine (.enc ds ks) = .error r) ∧ (∃ r, assembleLine (.dec ds ks) = .error r)) ∧
  (∀ ks : List Char, (∃ r, literal 10 ks = .error r) → ∃ r, assembleLine (.keygen ks) = .error r) ∧
  (∀ l : List Char, '\n' ∉ l →
    (parseLine l = .ok none → assembleText l = .ok []) ∧
    (∀ a w, parseLine l = .ok (some a) → assembleLine a = .ok w → assembleText l = .ok [w]) ∧
    (∀ a, parseLine l = .ok (some a) → (∃ r, assembleLine a = .error r) → ∃ r, assembleText l = .error r) ∧
    ((∃ r, parseLine l = .error r) → ∃ r, assembleText l = .error r) ∧
    ∀ rest : List Char,
      (∀ a b, assembleText l = .ok a → assembleText rest = .ok b →
        assembleText (l ++ '\n' :: rest) = .ok (a ++ b)) ∧
      ((∃ r, assembleText l = .error r) ∨ (∃ r, assembleText rest = .error r) →
        ∃ r, assembleText (l ++ '\n' :: rest) = .error r))

/-- The end of a run (92_eei_decisions.md D24): from every idle state, commands each issued after the previous one
completed, its response read, leave the core idle with the response of the last one, read by the host. That the host
runs them as `turnsOfWords` (notes/assumptions/11.md), that an accepted command leaves the port, so that nothing is
offered at the end (notes/assumptions/4.md), and that the host keeps what it read in `hostSample`
(notes/assumptions/6.md) are the model's choices. -/
def Obligations.RunOfCommandsEndsWithTheLastResponse : Prop :=
  ∀ (s : State) (ws : List CmdWord) (w : CmdWord), s.busy = false → s.rst = false →
    s.turns = turnsOfWords (ws ++ [w]) →
    ∃ t : State, core.run (3 * (ws.length + 1)) s = .next t ∧ RunEnded t ∧ responseOf t = responseTo w
end

