-- ==== Sys2Proof/Laws/Assembler.lean ====
section
/-! SUPPORT. What hexadecimal digits read as, and how a text and a line are cut (30_encoding.md R45). -/

namespace Sys2Proof.Machine

/-- Digits read in two parts: the first part's value is where the second starts. -/
theorem hexDigits_append (acc : Nat) (cs ds : List Char) :
    hexDigits acc (cs ++ ds) = (hexDigits acc cs).bind fun v => hexDigits v ds := by
  induction cs generalizing acc with
  | nil => rfl
  | cons c cs ih =>
    simp only [List.cons_append, hexDigits]
    cases hexDigit c with
    | none => rfl
    | some d => exact ih _

/-- The digit character of a value below 16 has that value. -/
theorem hexDigit_digitChar (d : Nat) (h : d < 16) : hexDigit d.digitChar = some d := by
  revert d; decide

/-- The value of a digit by its character code. -/
theorem hexDigit_of_toNat (c : Char) (n : Nat) (h : c.toNat = n) :
    hexDigit c = if 48 ≤ n ∧ n ≤ 57 then some (n - 48)
      else if 65 ≤ n ∧ n ≤ 70 then some (n - 55)
      else if 97 ≤ n ∧ n ≤ 102 then some (n - 87) else none := by
  subst h
  unfold hexDigit
  simp only [show '0'.toNat = 48 from rfl, show '9'.toNat = 57 from rfl, show 'A'.toNat = 65 from rfl,
    show 'F'.toNat = 70 from rfl, show 'a'.toNat = 97 from rfl, show 'f'.toNat = 102 from rfl]
  split <;> [rfl; split] <;> [skip; split] <;> simp <;> omega

/-- The two letter cases of a digit have one value. -/
theorem hexDigit_toUpper (c : Char) : hexDigit c.toUpper = hexDigit c := by
  unfold Char.toUpper
  split
  · next h =>
    have h1 : 97 ≤ c.toNat := UInt32.le_iff_toNat_le.mp h.1
    have h2 : c.toNat ≤ 122 := UInt32.le_iff_toNat_le.mp h.2
    rw [hexDigit_of_toNat _ (c.toNat - 32) ?_, hexDigit_of_toNat c _ rfl]
    · split_ifs <;> first | omega | simp [Nat.sub_sub]
    · show (c.val + 4294967264).toNat = c.val.toNat - 32
      rw [UInt32.toNat_add]
      simp
      omega
  · rfl

/-! ### Cutting a text and a line -/

theorem splitAtChar_of_notMem (sep : Char) (l : List Char) (h : sep ∉ l) : splitAtChar sep l = [l] := by
  induction l with
  | nil => rfl
  | cons c l ih =>
    simp at h
    simp [splitAtChar, ih h.2, Ne.symm h.1]

/-- The first part of a text is what stands before its first separator. -/
theorem splitAtChar_append (sep : Char) (l rest : List Char) (h : sep ∉ l) :
    splitAtChar sep (l ++ sep :: rest) = l :: splitAtChar sep rest := by
  induction l with
  | nil => simp [splitAtChar]
  | cons c l ih =>
    simp at h
    simp [splitAtChar, ih h.2, Ne.symm h.1]

theorem trimBlanks_append_left (b cs : List Char) (h : ∀ c ∈ b, isBlank c = true) :
    trimBlanks (b ++ cs) = trimBlanks cs := by
  unfold trimBlanks
  rw [List.dropWhile_append_of_pos (by simpa using h)]

theorem trimBlanks_append_right (b cs : List Char) (h : ∀ c ∈ b, isBlank c = true) :
    trimBlanks (cs ++ b) = trimBlanks cs := by
  unfold trimBlanks
  have hb : b.dropWhile isBlank = [] := by simpa [List.dropWhile_eq_nil_iff] using h
  by_cases hc : cs.dropWhile isBlank = []
  · rw [List.dropWhile_append, if_pos (by simp [hc]), hb, hc]
  · rw [List.dropWhile_append, if_neg (by simpa using hc), List.reverse_append,
      List.dropWhile_append_of_pos (by simpa using h)]

/-- A text whose first and last characters are no blanks is not trimmed. -/
theorem trimBlanks_of_ends (cs : List Char) (hn : cs ≠ []) (hfirst : isBlank (cs.head hn) = false)
    (hlast : isBlank (cs.getLast hn) = false) : trimBlanks cs = cs := by
  have drop : ∀ (l : List Char) (h : l ≠ []), isBlank (l.head h) = false → l.dropWhile isBlank = l := by
    intro l h hh
    cases l with
    | nil => rfl
    | cons c l => exact List.dropWhile_cons_of_neg (by simpa using hh)
  unfold trimBlanks
  rw [drop cs hn hfirst, drop cs.reverse (by simpa using hn) (by simpa using hlast), List.reverse_reverse]

theorem ne_semicolon_of_isBlank (c : Char) (h : isBlank c = true) : c ≠ ';' := by
  rintro rfl
  revert h
  decide

/-- A comment is no part of a line's code. -/
theorem takeWhile_code (code tail : List Char) (h : ∀ c ∈ code, c ≠ ';') (ht : tail = [] ∨ ∃ x, tail = ';' :: x) :
    (code ++ tail).takeWhile (· != ';') = code := by
  rw [List.takeWhile_append_of_pos (by simpa using h)]
  rcases ht with rfl | ⟨x, rfl⟩ <;> simp

/-- A line is cut into its mnemonic and the parts of its operands between commas. -/
theorem lineParts_code (m gap ops post tail : List Char) (hm : m ≠ []) (hg : gap ≠ []) (ho : ops ≠ [])
    (hmc : ∀ c ∈ m, isBlank c = false ∧ c ≠ ';') (hoc : ∀ c ∈ ops, c ≠ ';')
    (hgb : ∀ c ∈ gap, isBlank c = true) (hpb : ∀ c ∈ post, isBlank c = true)
    (hfirst : isBlank (ops.head ho) = false) (hlast : isBlank (ops.getLast ho) = false)
    (ht : tail = [] ∨ ∃ x, tail = ';' :: x) :
    lineParts (m ++ gap ++ (ops ++ post ++ tail)) = (m, (splitAtChar ',' ops).map trimBlanks) := by
  have hcode : ∀ c ∈ m ++ gap ++ ops ++ post, c ≠ ';' := by
    intro c hc
    simp only [List.mem_append] at hc
    rcases hc with ((h | h) | h) | h
    · exact (hmc c h).2
    · exact ne_semicolon_of_isBlank c (hgb c h)
    · exact hoc c h
    · exact ne_semicolon_of_isBlank c (hpb c h)
  have htake : (m ++ gap ++ (ops ++ post ++ tail)).takeWhile (· != ';') = m ++ gap ++ ops ++ post := by
    rw [← takeWhile_code _ tail hcode ht]
    simp
  have htrim : trimBlanks (m ++ gap ++ ops ++ post) = m ++ gap ++ ops := by
    rw [trimBlanks_append_right _ _ hpb]
    apply trimBlanks_of_ends _ (by simp [hm])
    · rw [List.head_append_of_ne_nil (by simp [hm]), List.head_append_of_ne_nil hm]
      exact (hmc _ (List.head_mem _)).1
    · rw [List.getLast_append_of_ne_nil _ ho]
      exact hlast
  obtain ⟨g, gs, rfl⟩ := List.exists_cons_of_ne_nil hg
  have hgap : isBlank g = true := hgb g (by simp)
  have hm1 : (m ++ g :: gs ++ ops).takeWhile (fun c => !isBlank c) = m := by
    rw [List.append_assoc, List.takeWhile_append_of_pos (fun c hc => by simp [(hmc c hc).1])]
    simp [hgap]
  have hm2 : (m ++ g :: gs ++ ops).dropWhile (fun c => !isBlank c) = g :: gs ++ ops := by
    rw [List.append_assoc, List.dropWhile_append_of_pos (fun c hc => by simp [(hmc c hc).1])]
    simp [hgap]
  simp only [lineParts, htake, htrim, hm1, hm2]
  rw [trimBlanks_append_left _ _ hgb, trimBlanks_of_ends ops ho hfirst hlast]
  simp [ho]

end Sys2Proof.Machine
end

