-- ==== Sys2Proof/Laws/BitVector.lean ====
section
/-! SUPPORT. The bits of the shared vector operations (40_permutation_unit.md R47, R56, R58). -/

namespace Sys2Proof.Machine

theorem ofBits_getElem {n : Nat} (f : Fin n → Bool) (i : Nat) (h : i < n) : (ofBits f)[i] = f ⟨i, h⟩ := by
  induction n with
  | zero => omega
  | succ n ih =>
    simp only [ofBits, BitVec.getElem_cons]
    split
    · subst i; rfl
    · exact ih _ (by omega)

/-- A table entry is a position of the input (40_permutation_unit.md R55). -/
theorem permTable_entry_inRange {N M : Nat} (T : PermTable N M) (j : Nat) (h : j < M) :
    1 ≤ T.entries.getD j 0 ∧ T.entries.getD j 0 ≤ N := by
  have hl : j < T.entries.length := by rw [T.shape]; exact h
  rw [List.getD_eq_getElem _ _ hl]
  exact T.inRange _ (List.getElem_mem hl)

theorem permute_getElem {N M : Nat} (v : BitVec N) (T : PermTable N M) (k : Nat) (h : k < M) :
    (permute v T)[k] = v.getLsbD (N - T.entries.getD (M - 1 - k) 0) := by
  simp only [permute, ofBits_getElem]

/-- What `permute` never does: read past the vector's end (93_implementation_defined.md U1). -/
theorem permute_index_lt {N M : Nat} (T : PermTable N M) (k : Nat) (h : k < M) :
    N - T.entries.getD (M - 1 - k) 0 < N := by
  have := permTable_entry_inRange T (M - 1 - k) (by omega)
  omega

theorem rotl_getElem {N : Nat} (v : BitVec N) (n k : Nat) (h : k < N) :
    (rotl v n)[k] = if k < n % N then v.getLsbD (N - n % N + k) else v.getLsbD (k - n % N) := by
  simp only [rotl, ofBits_getElem]

@[simp] theorem left_join {h : Nat} (l r : BitVec h) : left h (join l r) = l := by
  apply BitVec.eq_of_getLsbD_eq
  intro i hi
  simp only [left, join, BitVec.getLsbD_extractLsb', BitVec.getLsbD_append, hi]
  simp

@[simp] theorem right_join {h : Nat} (l r : BitVec h) : right h (join l r) = r := by
  apply BitVec.eq_of_getLsbD_eq
  intro i hi
  simp [right, join, BitVec.getLsbD_append, hi]

/-- "For every x, `join(left(x), right(x)) = x`" (40_permutation_unit.md R58). -/
@[simp] theorem join_left_right {h : Nat} (x : BitVec (h + h)) : join (left h x) (right h x) = x := by
  apply BitVec.eq_of_getLsbD_eq
  intro i hi
  simp only [left, right, join, BitVec.getLsbD_append, BitVec.getLsbD_extractLsb']
  split
  · simp [*]
  · rw [show h + (i - h) = i by omega]
    simp [show i - h < h by omega]

/-- An S-box cell holds 0 to 3 wherever the two indices lie in 0 to 3 (41_sbox.md R62). -/
theorem sboxCell_le (S : SBox) (row col : Nat) (hr : row < 4) (hc : col < 4) : sboxCell S row col ≤ 3 := by
  have h1 : row < S.rows.length := by rw [S.shape.1]; exact hr
  have h2 : col < S.rows[row].length := by
    rw [S.shape.2 _ (List.getElem_mem h1)]; exact hc
  rw [sboxCell, List.getD_eq_getElem _ _ h1, List.getD_eq_getElem _ _ h2]
  exact S.inRange _ (List.getElem_mem h1) _ (List.getElem_mem h2)

theorem sboxRow_lt (x : BitVec 4) : sboxRow x < 4 := (bits2 x[3] x[0]).isLt

theorem sboxCol_lt (x : BitVec 4) : sboxCol x < 4 := (bits2 x[2] x[1]).isLt

end Sys2Proof.Machine
end

