-- ==== Sys2Proof/Laws/State.lean ====
section
/-! SUPPORT. One lemma per field per state update: what the update writes and what it leaves. -/

namespace Sys2Proof.Machine

section setTurnsFields

variable (ts : List Turn) (s : State)

@[simp] theorem setTurns_busy : (setTurns ts s).busy = s.busy := rfl
@[simp] theorem setTurns_pend : (setTurns ts s).pend = s.pend := rfl
@[simp] theorem setTurns_rspValid : (setTurns ts s).rspValid = s.rspValid := rfl
@[simp] theorem setTurns_rspErr : (setTurns ts s).rspErr = s.rspErr := rfl
@[simp] theorem setTurns_rspData : (setTurns ts s).rspData = s.rspData := rfl
@[simp] theorem setTurns_rspK1 : (setTurns ts s).rspK1 = s.rspK1 := rfl
@[simp] theorem setTurns_rspK2 : (setTurns ts s).rspK2 = s.rspK2 := rfl
@[simp] theorem setTurns_rst : (setTurns ts s).rst = s.rst := rfl
@[simp] theorem setTurns_offer : (setTurns ts s).offer = s.offer := rfl
@[simp] theorem setTurns_turns : (setTurns ts s).turns = ts := rfl
@[simp] theorem setTurns_hostSample : (setTurns ts s).hostSample = s.hostSample := rfl
@[simp] theorem setTurns_hostValue : (setTurns ts s).hostValue = s.hostValue := rfl
@[simp] theorem setTurns_hostRefusal : (setTurns ts s).hostRefusal = s.hostRefusal := rfl
@[simp] theorem setTurns_adapterDraws : (setTurns ts s).adapterDraws = s.adapterDraws := rfl

end setTurnsFields

section setOfferFields

variable (o : Option CmdWord) (s : State)

@[simp] theorem setOffer_busy : (setOffer o s).busy = s.busy := rfl
@[simp] theorem setOffer_pend : (setOffer o s).pend = s.pend := rfl
@[simp] theorem setOffer_rspValid : (setOffer o s).rspValid = s.rspValid := rfl
@[simp] theorem setOffer_rspErr : (setOffer o s).rspErr = s.rspErr := rfl
@[simp] theorem setOffer_rspData : (setOffer o s).rspData = s.rspData := rfl
@[simp] theorem setOffer_rspK1 : (setOffer o s).rspK1 = s.rspK1 := rfl
@[simp] theorem setOffer_rspK2 : (setOffer o s).rspK2 = s.rspK2 := rfl
@[simp] theorem setOffer_rst : (setOffer o s).rst = s.rst := rfl
@[simp] theorem setOffer_offer : (setOffer o s).offer = o := rfl
@[simp] theorem setOffer_turns : (setOffer o s).turns = s.turns := rfl
@[simp] theorem setOffer_hostSample : (setOffer o s).hostSample = s.hostSample := rfl
@[simp] theorem setOffer_hostValue : (setOffer o s).hostValue = s.hostValue := rfl
@[simp] theorem setOffer_hostRefusal : (setOffer o s).hostRefusal = s.hostRefusal := rfl
@[simp] theorem setOffer_adapterDraws : (setOffer o s).adapterDraws = s.adapterDraws := rfl

end setOfferFields

section setRstFields

variable (level : Bool) (s : State)

@[simp] theorem setRst_busy : (setRst level s).busy = s.busy := rfl
@[simp] theorem setRst_pend : (setRst level s).pend = s.pend := rfl
@[simp] theorem setRst_rspValid : (setRst level s).rspValid = s.rspValid := rfl
@[simp] theorem setRst_rspErr : (setRst level s).rspErr = s.rspErr := rfl
@[simp] theorem setRst_rspData : (setRst level s).rspData = s.rspData := rfl
@[simp] theorem setRst_rspK1 : (setRst level s).rspK1 = s.rspK1 := rfl
@[simp] theorem setRst_rspK2 : (setRst level s).rspK2 = s.rspK2 := rfl
@[simp] theorem setRst_rst : (setRst level s).rst = level := rfl
@[simp] theorem setRst_offer : (setRst level s).offer = s.offer := rfl
@[simp] theorem setRst_turns : (setRst level s).turns = s.turns := rfl
@[simp] theorem setRst_hostSample : (setRst level s).hostSample = s.hostSample := rfl
@[simp] theorem setRst_hostValue : (setRst level s).hostValue = s.hostValue := rfl
@[simp] theorem setRst_hostRefusal : (setRst level s).hostRefusal = s.hostRefusal := rfl
@[simp] theorem setRst_adapterDraws : (setRst level s).adapterDraws = s.adapterDraws := rfl

end setRstFields

section setHostValueFields

variable (v : BitVec 8) (s : State)

@[simp] theorem setHostValue_busy : (setHostValue v s).busy = s.busy := rfl
@[simp] theorem setHostValue_pend : (setHostValue v s).pend = s.pend := rfl
@[simp] theorem setHostValue_rspValid : (setHostValue v s).rspValid = s.rspValid := rfl
@[simp] theorem setHostValue_rspErr : (setHostValue v s).rspErr = s.rspErr := rfl
@[simp] theorem setHostValue_rspData : (setHostValue v s).rspData = s.rspData := rfl
@[simp] theorem setHostValue_rspK1 : (setHostValue v s).rspK1 = s.rspK1 := rfl
@[simp] theorem setHostValue_rspK2 : (setHostValue v s).rspK2 = s.rspK2 := rfl
@[simp] theorem setHostValue_rst : (setHostValue v s).rst = s.rst := rfl
@[simp] theorem setHostValue_offer : (setHostValue v s).offer = s.offer := rfl
@[simp] theorem setHostValue_turns : (setHostValue v s).turns = s.turns := rfl
@[simp] theorem setHostValue_hostSample : (setHostValue v s).hostSample = s.hostSample := rfl
@[simp] theorem setHostValue_hostValue : (setHostValue v s).hostValue = some v := rfl
@[simp] theorem setHostValue_hostRefusal : (setHostValue v s).hostRefusal = s.hostRefusal := rfl
@[simp] theorem setHostValue_adapterDraws : (setHostValue v s).adapterDraws = s.adapterDraws := rfl

end setHostValueFields

section issueFields

variable (w : CmdWord) (s : State)

@[simp] theorem issue_busy : (issue w s).busy = true := rfl
@[simp] theorem issue_pend : (issue w s).pend = some w := rfl
@[simp] theorem issue_rspValid : (issue w s).rspValid = false := rfl
@[simp] theorem issue_rspErr : (issue w s).rspErr = false := rfl
@[simp] theorem issue_rspData : (issue w s).rspData = none := rfl
@[simp] theorem issue_rspK1 : (issue w s).rspK1 = none := rfl
@[simp] theorem issue_rspK2 : (issue w s).rspK2 = none := rfl
@[simp] theorem issue_rst : (issue w s).rst = s.rst := rfl
@[simp] theorem issue_offer : (issue w s).offer = none := rfl
@[simp] theorem issue_turns : (issue w s).turns = s.turns := rfl
@[simp] theorem issue_hostSample : (issue w s).hostSample = s.hostSample := rfl
@[simp] theorem issue_hostValue : (issue w s).hostValue = s.hostValue := rfl
@[simp] theorem issue_hostRefusal : (issue w s).hostRefusal = s.hostRefusal := rfl
@[simp] theorem issue_adapterDraws : (issue w s).adapterDraws = s.adapterDraws := rfl

end issueFields

section completeBlockFields

variable (b : Block) (s : State)

@[simp] theorem completeBlock_busy : (completeBlock b s).busy = false := rfl
@[simp] theorem completeBlock_pend : (completeBlock b s).pend = none := rfl
@[simp] theorem completeBlock_rspValid : (completeBlock b s).rspValid = true := rfl
@[simp] theorem completeBlock_rspErr : (completeBlock b s).rspErr = s.rspErr := rfl
@[simp] theorem completeBlock_rspData : (completeBlock b s).rspData = some b := rfl
@[simp] theorem completeBlock_rspK1 : (completeBlock b s).rspK1 = s.rspK1 := rfl
@[simp] theorem completeBlock_rspK2 : (completeBlock b s).rspK2 = s.rspK2 := rfl
@[simp] theorem completeBlock_rst : (completeBlock b s).rst = s.rst := rfl
@[simp] theorem completeBlock_offer : (completeBlock b s).offer = s.offer := rfl
@[simp] theorem completeBlock_turns : (completeBlock b s).turns = s.turns := rfl
@[simp] theorem completeBlock_hostSample : (completeBlock b s).hostSample = s.hostSample := rfl
@[simp] theorem completeBlock_hostValue : (completeBlock b s).hostValue = s.hostValue := rfl
@[simp] theorem completeBlock_hostRefusal : (completeBlock b s).hostRefusal = s.hostRefusal := rfl
@[simp] theorem completeBlock_adapterDraws : (completeBlock b s).adapterDraws = s.adapterDraws := rfl

end completeBlockFields

section completeSubkeysFields

variable (k : Subkey × Subkey) (s : State)

@[simp] theorem completeSubkeys_busy : (completeSubkeys k s).busy = false := rfl
@[simp] theorem completeSubkeys_pend : (completeSubkeys k s).pend = none := rfl
@[simp] theorem completeSubkeys_rspValid : (completeSubkeys k s).rspValid = true := rfl
@[simp] theorem completeSubkeys_rspErr : (completeSubkeys k s).rspErr = s.rspErr := rfl
@[simp] theorem completeSubkeys_rspData : (completeSubkeys k s).rspData = s.rspData := rfl
@[simp] theorem completeSubkeys_rspK1 : (completeSubkeys k s).rspK1 = some k.1 := rfl
@[simp] theorem completeSubkeys_rspK2 : (completeSubkeys k s).rspK2 = some k.2 := rfl
@[simp] theorem completeSubkeys_rst : (completeSubkeys k s).rst = s.rst := rfl
@[simp] theorem completeSubkeys_offer : (completeSubkeys k s).offer = s.offer := rfl
@[simp] theorem completeSubkeys_turns : (completeSubkeys k s).turns = s.turns := rfl
@[simp] theorem completeSubkeys_hostSample : (completeSubkeys k s).hostSample = s.hostSample := rfl
@[simp] theorem completeSubkeys_hostValue : (completeSubkeys k s).hostValue = s.hostValue := rfl
@[simp] theorem completeSubkeys_hostRefusal : (completeSubkeys k s).hostRefusal = s.hostRefusal := rfl
@[simp] theorem completeSubkeys_adapterDraws : (completeSubkeys k s).adapterDraws = s.adapterDraws := rfl

end completeSubkeysFields

section raiseIllegalCommandFields

variable (s : State)

@[simp] theorem raiseIllegalCommand_busy : (raiseIllegalCommand s).busy = false := rfl
@[simp] theorem raiseIllegalCommand_pend : (raiseIllegalCommand s).pend = none := rfl
@[simp] theorem raiseIllegalCommand_rspValid : (raiseIllegalCommand s).rspValid = true := rfl
@[simp] theorem raiseIllegalCommand_rspErr : (raiseIllegalCommand s).rspErr = true := rfl
@[simp] theorem raiseIllegalCommand_rspData : (raiseIllegalCommand s).rspData = s.rspData := rfl
@[simp] theorem raiseIllegalCommand_rspK1 : (raiseIllegalCommand s).rspK1 = s.rspK1 := rfl
@[simp] theorem raiseIllegalCommand_rspK2 : (raiseIllegalCommand s).rspK2 = s.rspK2 := rfl
@[simp] theorem raiseIllegalCommand_rst : (raiseIllegalCommand s).rst = s.rst := rfl
@[simp] theorem raiseIllegalCommand_offer : (raiseIllegalCommand s).offer = s.offer := rfl
@[simp] theorem raiseIllegalCommand_turns : (raiseIllegalCommand s).turns = s.turns := rfl
@[simp] theorem raiseIllegalCommand_hostSample : (raiseIllegalCommand s).hostSample = s.hostSample := rfl
@[simp] theorem raiseIllegalCommand_hostValue : (raiseIllegalCommand s).hostValue = s.hostValue := rfl
@[simp] theorem raiseIllegalCommand_hostRefusal : (raiseIllegalCommand s).hostRefusal = s.hostRefusal := rfl
@[simp] theorem raiseIllegalCommand_adapterDraws : (raiseIllegalCommand s).adapterDraws = s.adapterDraws := rfl

end raiseIllegalCommandFields

section resetCoreFields

variable (s : State)

@[simp] theorem resetCore_busy : (resetCore s).busy = false := rfl
@[simp] theorem resetCore_pend : (resetCore s).pend = none := rfl
@[simp] theorem resetCore_rspValid : (resetCore s).rspValid = false := rfl
@[simp] theorem resetCore_rspErr : (resetCore s).rspErr = false := rfl
@[simp] theorem resetCore_rspData : (resetCore s).rspData = none := rfl
@[simp] theorem resetCore_rspK1 : (resetCore s).rspK1 = none := rfl
@[simp] theorem resetCore_rspK2 : (resetCore s).rspK2 = none := rfl
@[simp] theorem resetCore_rst : (resetCore s).rst = s.rst := rfl
@[simp] theorem resetCore_offer : (resetCore s).offer = s.offer := rfl
@[simp] theorem resetCore_turns : (resetCore s).turns = s.turns := rfl
@[simp] theorem resetCore_hostSample : (resetCore s).hostSample = s.hostSample := rfl
@[simp] theorem resetCore_hostValue : (resetCore s).hostValue = s.hostValue := rfl
@[simp] theorem resetCore_hostRefusal : (resetCore s).hostRefusal = s.hostRefusal := rfl
@[simp] theorem resetCore_adapterDraws : (resetCore s).adapterDraws = s.adapterDraws := rfl

end resetCoreFields

section resetTurnFields

variable (held : Bool) (s : State)

@[simp] theorem resetTurn_busy : (resetTurn held s).busy = false := rfl
@[simp] theorem resetTurn_pend : (resetTurn held s).pend = none := rfl
@[simp] theorem resetTurn_rspValid : (resetTurn held s).rspValid = false := rfl
@[simp] theorem resetTurn_rspErr : (resetTurn held s).rspErr = false := rfl
@[simp] theorem resetTurn_rspData : (resetTurn held s).rspData = none := rfl
@[simp] theorem resetTurn_rspK1 : (resetTurn held s).rspK1 = none := rfl
@[simp] theorem resetTurn_rspK2 : (resetTurn held s).rspK2 = none := rfl
@[simp] theorem resetTurn_rst : (resetTurn held s).rst = held := rfl
@[simp] theorem resetTurn_offer : (resetTurn held s).offer = s.offer := rfl
@[simp] theorem resetTurn_turns : (resetTurn held s).turns = s.turns := rfl
@[simp] theorem resetTurn_hostSample : (resetTurn held s).hostSample = s.hostSample := rfl
@[simp] theorem resetTurn_hostValue : (resetTurn held s).hostValue = s.hostValue := rfl
@[simp] theorem resetTurn_hostRefusal : (resetTurn held s).hostRefusal = s.hostRefusal := rfl
@[simp] theorem resetTurn_adapterDraws : (resetTurn held s).adapterDraws = s.adapterDraws := rfl

end resetTurnFields

section readTurnFields

variable (s : State)

@[simp] theorem readTurn_busy : (readTurn s).busy = s.busy := rfl
@[simp] theorem readTurn_pend : (readTurn s).pend = s.pend := rfl
@[simp] theorem readTurn_rspValid : (readTurn s).rspValid = s.rspValid := rfl
@[simp] theorem readTurn_rspErr : (readTurn s).rspErr = s.rspErr := rfl
@[simp] theorem readTurn_rspData : (readTurn s).rspData = s.rspData := rfl
@[simp] theorem readTurn_rspK1 : (readTurn s).rspK1 = s.rspK1 := rfl
@[simp] theorem readTurn_rspK2 : (readTurn s).rspK2 = s.rspK2 := rfl
@[simp] theorem readTurn_rst : (readTurn s).rst = s.rst := rfl
@[simp] theorem readTurn_offer : (readTurn s).offer = s.offer := rfl
@[simp] theorem readTurn_turns : (readTurn s).turns = s.turns := rfl
@[simp] theorem readTurn_hostSample : (readTurn s).hostSample = some (sample s) := rfl
@[simp] theorem readTurn_hostValue : (readTurn s).hostValue = s.hostValue := rfl
@[simp] theorem readTurn_hostRefusal : (readTurn s).hostRefusal = s.hostRefusal := rfl
@[simp] theorem readTurn_adapterDraws : (readTurn s).adapterDraws = s.adapterDraws := rfl

end readTurnFields

section refuseRequestFields

variable (fs : List HostRefusal) (s : State)

@[simp] theorem refuseRequest_busy : (refuseRequest fs s).busy = s.busy := rfl
@[simp] theorem refuseRequest_pend : (refuseRequest fs s).pend = s.pend := rfl
@[simp] theorem refuseRequest_rspValid : (refuseRequest fs s).rspValid = s.rspValid := rfl
@[simp] theorem refuseRequest_rspErr : (refuseRequest fs s).rspErr = s.rspErr := rfl
@[simp] theorem refuseRequest_rspData : (refuseRequest fs s).rspData = s.rspData := rfl
@[simp] theorem refuseRequest_rspK1 : (refuseRequest fs s).rspK1 = s.rspK1 := rfl
@[simp] theorem refuseRequest_rspK2 : (refuseRequest fs s).rspK2 = s.rspK2 := rfl
@[simp] theorem refuseRequest_rst : (refuseRequest fs s).rst = s.rst := rfl
@[simp] theorem refuseRequest_offer : (refuseRequest fs s).offer = s.offer := rfl
@[simp] theorem refuseRequest_turns : (refuseRequest fs s).turns = s.turns := rfl
@[simp] theorem refuseRequest_hostSample : (refuseRequest fs s).hostSample = s.hostSample := rfl
@[simp] theorem refuseRequest_hostValue : (refuseRequest fs s).hostValue = s.hostValue := rfl
@[simp] theorem refuseRequest_hostRefusal : (refuseRequest fs s).hostRefusal = reportedRefusal (Config.adapterChoice s.adapterDraws) fs := rfl
@[simp] theorem refuseRequest_adapterDraws : (refuseRequest fs s).adapterDraws = s.adapterDraws + 1 := rfl

end refuseRequestFields

section placeCommandFields

variable (w : CmdWord) (s : State)

@[simp] theorem placeCommand_busy : (placeCommand w s).busy = true := rfl
@[simp] theorem placeCommand_pend : (placeCommand w s).pend = some w := rfl
@[simp] theorem placeCommand_rspValid : (placeCommand w s).rspValid = false := rfl
@[simp] theorem placeCommand_rspErr : (placeCommand w s).rspErr = false := rfl
@[simp] theorem placeCommand_rspData : (placeCommand w s).rspData = none := rfl
@[simp] theorem placeCommand_rspK1 : (placeCommand w s).rspK1 = none := rfl
@[simp] theorem placeCommand_rspK2 : (placeCommand w s).rspK2 = none := rfl
@[simp] theorem placeCommand_rst : (placeCommand w s).rst = s.rst := rfl
@[simp] theorem placeCommand_offer : (placeCommand w s).offer = s.offer := rfl
@[simp] theorem placeCommand_turns : (placeCommand w s).turns = .complete :: s.turns := rfl
@[simp] theorem placeCommand_hostSample : (placeCommand w s).hostSample = s.hostSample := rfl
@[simp] theorem placeCommand_hostValue : (placeCommand w s).hostValue = s.hostValue := rfl
@[simp] theorem placeCommand_hostRefusal : (placeCommand w s).hostRefusal = s.hostRefusal := rfl
@[simp] theorem placeCommand_adapterDraws : (placeCommand w s).adapterDraws = s.adapterDraws := rfl

end placeCommandFields

end Sys2Proof.Machine
end

