-- ==== Sys2Proof/Laws/Cycle.lean ====
section
/-! SUPPORT. Everything each shared operation of the cycle can do, once (44_cipher_commands.md R74 to R76). -/

namespace Sys2Proof.Machine

theorem decode_enc (w : CmdWord) (h : opField w = 0b00#2) : decode w = .ok (.enc (dataField w) (keyField w)) := by
  simp [decode, h]

theorem decode_dec (w : CmdWord) (h : opField w = 0b01#2) : decode w = .ok (.dec (dataField w) (keyField w)) := by
  simp [decode, h]

theorem decode_keygen (w : CmdWord) (h : opField w = 0b10#2) : decode w = .ok (.keygen (keyField w)) := by
  simp [decode, h]

theorem decode_illegal (w : CmdWord) (h : opField w = 0b11#2) : decode w = .error (.illegalCommand 0b11#2) := by
  simp [decode, h]

theorem op_cases (o : BitVec 2) : o = 0b00#2 ∨ o = 0b01#2 ∨ o = 0b10#2 ∨ o = 0b11#2 := by
  revert o; decide

/-- `Complete` of any word has one of four effects (44_cipher_commands.md R75). -/
theorem completeWord_cases (w : CmdWord) (s : State) :
    (opField w = 0b00#2 ∧
      completeWord w s = .next (completeBlock (encrypt sdesTables (dataField w) (keyField w)) s)) ∨
    (opField w = 0b01#2 ∧
      completeWord w s = .next (completeBlock (decrypt sdesTables (dataField w) (keyField w)) s)) ∨
    (opField w = 0b10#2 ∧ completeWord w s = .next (completeSubkeys (keySched sdesTables (keyField w)) s)) ∨
    (opField w = 0b11#2 ∧ completeWord w s = .next (raiseIllegalCommand s)) := by
  rcases op_cases (opField w) with h | h | h | h
  · exact .inl ⟨h, by simp [completeWord, decode_enc w h, exec, execEnc]⟩
  · exact .inr (.inl ⟨h, by simp [completeWord, decode_dec w h, exec, execDec]⟩)
  · exact .inr (.inr (.inl ⟨h, by simp [completeWord, decode_keygen w h, exec, execKeygen]⟩))
  · exact .inr (.inr (.inr ⟨h, by simp [completeWord, decode_illegal w h]⟩))

theorem completeTurn_idle (s : State) (h : s.busy = false) : completeTurn s = .next s := by
  simp [completeTurn, h]

theorem completeTurn_inFlight (s : State) (w : CmdWord) (h : s.busy = true) (hp : s.pend = some w) :
    completeTurn s = completeWord w s := by
  simp [completeTurn, h, hp]

theorem completeTurn_noWord (s : State) (h : s.busy = true) (hp : s.pend = none) :
    completeTurn s = .fault (.readOfNone .pend) := by
  simp [completeTurn, h, hp]

theorem cmdReady_iff (s : State) : cmdReady s = true ↔ s.busy = false ∧ s.rst = false := by
  simp [cmdReady]

/-- An offer is taken or held (44_cipher_commands.md R74, R76). -/
theorem offerWord_cases (w : CmdWord) (s : State) :
    (s.busy = false ∧ s.rst = false ∧ offerWord w s = issue w s) ∨
    ((s.busy = true ∨ s.rst = true) ∧ offerWord w s = setOffer (some w) s) := by
  unfold offerWord cmdReady
  cases s.busy <;> cases s.rst <;> simp

/-- A held command is taken, or nothing moves (R76). -/
theorem acceptHeld_cases (s : State) :
    (∃ w, s.offer = some w ∧ s.busy = false ∧ s.rst = false ∧ acceptHeld s = issue w s) ∨
    ((s.offer = none ∨ s.busy = true ∨ s.rst = true) ∧ acceptHeld s = s) := by
  unfold acceptHeld cmdReady
  cases s.offer <;> cases s.busy <;> cases s.rst <;> simp

/-- A request is offered as its word, or refused (60_exceptions.md R87). -/
theorem submitRequest_cases (r : StringRequest) (s : State) :
    (requestFailures r = [] ∧ submitRequest r s = offerWord (requestWord r) s) ∨
    (requestFailures r ≠ [] ∧ submitRequest r s = refuseRequest (requestFailures r) s) := by
  unfold submitRequest
  split <;> simp_all

/-- The refusal reported is one of the failed checks (60_exceptions.md R88). -/
theorem reportedRefusal_mem (draw : Nat) (fs : List HostRefusal) (h : fs ≠ []) :
    ∃ r ∈ fs, reportedRefusal draw fs = some r := by
  have hl : draw % fs.length < fs.length := Nat.mod_lt _ (List.length_pos_iff.mpr h)
  exact ⟨fs[draw % fs.length], List.getElem_mem hl, List.getElem?_eq_getElem hl⟩

/-- Using a field gives its value or faults (10_state.md R24). -/
theorem useTurn_cases (f : RspField) (s : State) :
    (∃ v, readField f s = some v ∧ useTurn f s = .next (setHostValue v s)) ∨
    (readField f s = none ∧ useTurn f s = .fault (.readOfNone (.rsp f))) := by
  unfold useTurn
  split <;> simp_all

theorem step_planned (s : State) (t : Turn) (rest : List Turn) (h : s.turns = t :: rest) :
    step s = takeTurn t (setTurns rest s) := by
  simp [step, h]

theorem step_unplanned (s : State) (h : s.turns = []) : step s = unplannedTurn s := by
  simp [step, h]

theorem unplannedTurn_busy (s : State) (h : s.busy = true) : unplannedTurn s = completeTurn s := by
  simp [unplannedTurn, h]

theorem unplannedTurn_idle (s : State) (h : s.busy = false) : unplannedTurn s = .next (acceptHeld s) := by
  simp [unplannedTurn, h]

end Sys2Proof.Machine
end

