-- ==== Sys2Proof/Laws/Fields.lean ====
section
/-! SUPPORT. The fields of a packed word (30_encoding.md R38, R46). -/

namespace Sys2Proof

theorem packWord_getLsbD (o : BitVec 2) (k : Key) (d : Block) (i : Nat) :
    (packWord o k d).getLsbD i =
      if i < 8 then d.getLsbD i else if i - 8 < 10 then k.getLsbD (i - 8) else o.getLsbD (i - 8 - 10) := by
  show (o ++ k ++ d : BitVec (2 + 10 + 8)).getLsbD i = _
  simp only [BitVec.getLsbD_append]

@[simp] theorem opField_packWord (o : BitVec 2) (k : Key) (d : Block) : opField (packWord o k d) = o := by
  apply BitVec.eq_of_getLsbD_eq
  intro i hi
  simp only [opField, BitVec.getLsbD_extractLsb', packWord_getLsbD, hi, decide_true, Bool.true_and]
  rw [if_neg (by omega), if_neg (by omega), show 18 + i - 8 - 10 = i by omega]

@[simp] theorem keyField_packWord (o : BitVec 2) (k : Key) (d : Block) : keyField (packWord o k d) = k := by
  apply BitVec.eq_of_getLsbD_eq
  intro i hi
  simp only [keyField, BitVec.getLsbD_extractLsb', packWord_getLsbD, hi, decide_true, Bool.true_and]
  rw [if_neg (by omega), if_pos (by omega), show 8 + i - 8 = i by omega]

@[simp] theorem dataField_packWord (o : BitVec 2) (k : Key) (d : Block) : dataField (packWord o k d) = d := by
  apply BitVec.eq_of_getLsbD_eq
  intro i hi
  simp only [dataField, BitVec.getLsbD_extractLsb', packWord_getLsbD, hi, decide_true, Bool.true_and, Nat.zero_add]
  simp

/-- The three fields make up the whole word. -/
theorem packWord_fields (w : CmdWord) : packWord (opField w) (keyField w) (dataField w) = w := by
  apply BitVec.eq_of_getLsbD_eq
  intro i hi
  simp only [packWord_getLsbD, opField, keyField, dataField, BitVec.getLsbD_extractLsb']
  split
  · simp [*]
  · split
    · rw [show 8 + (i - 8) = i by omega]; simp [*]
    · rw [show 18 + (i - 8 - 10) = i by omega]; simp [show i - 8 - 10 < 2 by omega]

theorem packWord_toNat (o : BitVec 2) (k : Key) (d : Block) :
    (packWord o k d).toNat = ((o.toNat <<< 10 ||| k.toNat) <<< 8 ||| d.toNat) :=
  (BitVec.toNat_append (o ++ k) d).trans (by rw [BitVec.toNat_append])

end Sys2Proof
end

