-- ==== Sys2Proof/Laws/PerInstr.lean ====
section
/-! SUPPORT. The families of statements made per instruction (LAWS.json). -/

namespace Sys2Proof.Laws.EncodedOp

/-- The op value of an instruction's row (30_encoding.md R40). -/
def opOf : Instr → BitVec 2
  | .enc _ _ => 0b00#2
  | .dec _ _ => 0b01#2
  | .keygen _ => 0b10#2

/-- The instruction's word carries its row's op value (30_encoding.md R38, R40). -/
def Statement (i : Instr) : Prop := opField (encode i) = opOf i

theorem enc (data : Block) (key : Key) : Statement (.enc data key) := opField_packWord _ _ _

theorem dec (data : Block) (key : Key) : Statement (.dec data key) := opField_packWord _ _ _

theorem keygen (key : Key) : Statement (.keygen key) := opField_packWord _ _ _

end Sys2Proof.Laws.EncodedOp
end

