-- ==== Sys2Proof/Laws/Step.lean ====
section
/-! SUPPORT. A step by the turn it takes, runs of the machine step by step, and the words the statements use. -/

namespace Sys2Proof.Machine

/-- "`LATENCY >= 1`" (00_scope.md R8). -/
theorem latency_pos : 1 ≤ Config.latency := Nat.le_add_left 1 Config.latencyBeyondOne

theorem step_offer (s : State) (w : CmdWord) (rest : List Turn) (h : s.turns = .offer w :: rest) :
    step s = .next (offerWord w (setTurns rest s)) := step_planned s _ rest h

/-- An offer while BUSY is 1 is held on the port (44_cipher_commands.md R76). -/
theorem step_hold (s : State) (w : CmdWord) (rest : List Turn) (h : s.turns = .offer w :: rest)
    (hb : s.busy = true) : step s = .next (setOffer (some w) (setTurns rest s)) := by
  have hc : ¬cmdReady (setTurns rest s) = true := by simp [cmdReady, hb]
  rw [step_offer s w rest h, offerWord, if_neg hc]

/-- An accepting edge with a held word and a ready core is `Issue` (R76). -/
theorem step_accept (s : State) (w : CmdWord) (rest : List Turn) (h : s.turns = .accept :: rest)
    (ho : s.offer = some w) (hb : s.busy = false) (hr : s.rst = false) :
    step s = .next (issue w (setTurns rest s)) := by
  refine (step_planned s _ rest h).trans (congrArg Host.Outcome.next ?_)
  simp [acceptHeld, cmdReady, ho, hb, hr]

/-- Releasing `rst` changes nothing else (70_reset_and_hazards.md R95). -/
theorem step_releaseRst (s : State) (rest : List Turn) (h : s.turns = .releaseRst :: rest) :
    step s = .next (setRst false (setTurns rest s)) := step_planned s _ rest h

/-- An offer to a ready core is `Issue` (44_cipher_commands.md R74). -/
theorem step_issue (s : State) (w : CmdWord) (rest : List Turn) (h : s.turns = .offer w :: rest)
    (hb : s.busy = false) (hr : s.rst = false) : step s = .next (issue w (setTurns rest s)) := by
  have hc : cmdReady (setTurns rest s) = true := by simp [cmdReady, setTurns, hb, hr]
  rw [step_offer s w rest h, offerWord, if_pos hc]

theorem step_complete (s : State) (w : CmdWord) (rest : List Turn) (h : s.turns = .complete :: rest)
    (hb : s.busy = true) (hp : s.pend = some w) : step s = completeWord w (setTurns rest s) :=
  (step_planned s _ rest h).trans (completeTurn_inFlight (setTurns rest s) w hb hp)

theorem step_unplannedComplete (s : State) (w : CmdWord) (h : s.turns = []) (hb : s.busy = true)
    (hp : s.pend = some w) : step s = completeWord w s :=
  (step_unplanned s h).trans ((unplannedTurn_busy s hb).trans (completeTurn_inFlight s w hb hp))

theorem step_unplannedIdle (s : State) (h : s.turns = []) (hb : s.busy = false) :
    step s = .next (acceptHeld s) :=
  (step_unplanned s h).trans (unplannedTurn_idle s hb)

theorem hostRun_zero (M : Host.Core) (s : M.State) : M.run 0 s = .next s := by rw [Host.Core.run]

theorem hostRun_succ (M : Host.Core) (k : Nat) (s t : M.State) (h : M.step s = .next t) :
    M.run (k + 1) s = M.run k t := by rw [Host.Core.run, h]

/-- A run goes on from the next state. -/
theorem run_succ_next (k : Nat) (s t : State) (h : step s = .next t) : core.run (k + 1) s = core.run k t :=
  hostRun_succ core k s t h

/-- A run of one step. -/
theorem run_one (s t : State) (h : step s = .next t) : core.run 1 s = .next t :=
  (run_succ_next 0 s t h).trans (hostRun_zero core t)

theorem permute_getLsbD {N M : Nat} (v : BitVec N) (T : PermTable N M) (k : Nat) (h : k < M) :
    (permute v T).getLsbD k = v.getLsbD (N - T.entries.getD (M - 1 - k) 0) := by
  rw [BitVec.getLsbD_eq_getElem h, permute_getElem]

theorem rotl_getLsbD {N : Nat} (v : BitVec N) (n k : Nat) (h : k < N) :
    (rotl v n).getLsbD k = if k < n % N then v.getLsbD (N - n % N + k) else v.getLsbD (k - n % N) := by
  rw [BitVec.getLsbD_eq_getElem h, rotl_getElem]

theorem pickBits_getLsbD {n m : Nat} (v : BitVec m) (l : List Nat) (i : Nat) (h : i < n) :
    (pickBits n v l).getLsbD i = v.getLsbD (l.getD (n - 1 - i) 0) := by
  rw [BitVec.getLsbD_eq_getElem h, pickBits, ofBits_getElem]

end Sys2Proof.Machine
end

