-- ==== Sys2Proof/Tests/Slice0.lean ====
section
/-! SUPPORT. Tests with expected results from the spec's own tables and examples (95_test_vectors.md unless another
file is named), and a witness for the hypotheses of every statement that has some. -/

namespace Sys2Proof.Tests

open Sys2Proof.Machine

/-! ### Decoding: words written out bit by bit from 30_encoding.md R38 -/

theorem test_decode_enc : decode 0b00_1010000010_11010111#20 = .ok (.enc 0b11010111#8 0b1010000010#10) := by decide

theorem test_decode_dec : decode 0b01_1010000010_10101000#20 = .ok (.dec 0b10101000#8 0b1010000010#10) := by decide

theorem test_decode_keygen : decode 0b10_1010000010_00000000#20 = .ok (.keygen 0b1010000010#10) := by decide

theorem test_decode_keygen_ignores_data : decode 0b10_1010000010_11111111#20 = .ok (.keygen 0b1010000010#10) := by
  decide

theorem test_decode_reserved : decode 0b11_1010000010_11010111#20 = .error (.illegalCommand 0b11#2) := by decide

theorem test_decodeTableWord : decodeTableWord 24 0x682A8 = some (.dec 0xA8#8 0x282#10) := by decide

theorem test_decodeTableWord_reserved : decodeTableWord 24 0xFFFFF = none := by decide

theorem test_encode : encode (.enc 0xD7#8 0x282#10) = 0x282D7#20 ∧ encode (.dec 0xA8#8 0x282#10) = 0x682A8#20 ∧
    encode (.keygen 0x282#10) = 0xA8200#20 := by decide

/-! ### WellFormed: the record of 93_implementation_defined.md K1 to K8, and a record each check refuses -/

/-- The supplied values (93_implementation_defined.md K1 to K8). -/
def supplied : RawTables where
  p10 := [3, 5, 2, 7, 4, 10, 1, 9, 8, 6]
  p8 := [6, 3, 7, 4, 8, 5, 10, 9]
  ip := [2, 6, 3, 1, 4, 8, 5, 7]
  ipi := [4, 1, 3, 5, 7, 2, 8, 6]
  ep := [4, 1, 2, 3, 2, 3, 4, 1]
  p4 := [2, 4, 3, 1]
  s0 := [[1, 0, 3, 2], [3, 2, 1, 0], [0, 2, 1, 3], [3, 1, 3, 2]]
  s1 := [[0, 1, 2, 3], [2, 0, 1, 3], [3, 0, 1, 0], [2, 1, 0, 3]]

theorem test_supplied_accepted : supplied.check = .ok sdesTables := by decide

theorem test_refuses_short_table : ({ supplied with p4 := [2, 4, 3] } : RawTables).check = .error (.wrongShape .p4) := by
  decide

theorem test_refuses_entry_zero :
    ({ supplied with ep := [4, 1, 2, 3, 2, 3, 4, 0] } : RawTables).check = .error (.outOfRange .ep) := by decide

theorem test_refuses_entry_above_width :
    ({ supplied with p8 := [6, 3, 7, 4, 8, 5, 11, 9] } : RawTables).check = .error (.outOfRange .p8) := by decide

theorem test_refuses_non_inverse :
    ({ supplied with ipi := [1, 4, 3, 5, 7, 2, 8, 6] } : RawTables).check = .error .notInverse := by decide

theorem test_refuses_sbox_rows : ({ supplied with s0 := [[1, 0, 3, 2]] } : RawTables).check = .error (.wrongShape .s0) := by
  decide

theorem test_refuses_sbox_columns :
    ({ supplied with s1 := [[0, 1, 2], [2, 0, 1, 3], [3, 0, 1, 0], [2, 1, 0, 3]] } : RawTables).check =
      .error (.wrongShape .s1) := by decide

theorem test_refuses_sbox_entry :
    ({ supplied with s1 := [[0, 1, 2, 4], [2, 0, 1, 3], [3, 0, 1, 0], [2, 1, 0, 3]] } : RawTables).wellFormed = false := by
  decide

/-- No ill-formed command can be written (60_exceptions.md R86). -/
theorem test_every_command_wellFormed (i : Instr) : i.wellFormed = true := by
  cases i with
  | enc d k => simp [Instr.wellFormed, d.isLt, k.isLt]
  | dec d k => simp [Instr.wellFormed, d.isLt, k.isLt]
  | keygen k => simp [Instr.wellFormed, k.isLt]

/-! ### The datapath: sections 3.1 to 3.5 -/

theorem test_permIPI : permIPI sdesTables 0b00110010#8 = 0b10101000#8 := by decide

theorem test_permEP : permEP sdesTables 0b1000#4 = 0b01000001#8 := by decide

theorem test_permP8_drops_position_2 : permP8 sdesTables 0b0100000000#10 = 0#8 := by decide

theorem test_permP10 : permP10 sdesTables 0b0000010000#10 = 0b0000000001#10 := by decide

theorem test_rotl_wraps : rotl 0b10110#5 7 = 0b11010#5 := by decide

theorem test_sbox_column_order : sbox 0b0100#4 tableS0 = 0b11#2 ∧ sbox 0b0101#4 tableS0 = 0b01#2 := by decide

theorem test_fk : fk sdesTables 0b11010010#8 0b01000011#8 = 0b00110010#8 := by decide

theorem test_swapHalves : swapHalves 0b00101101#8 = 0b11010010#8 := by decide

theorem test_keySched : keySched sdesTables 0x01F#10 = (0x6B#8, 0xAA#8) := by decide

/-! ### One step of each kind -/

/-- A predicate holds of the next state. -/
def nextMeets (o : Host.Outcome State Fault Refusal) (p : State → Bool) : Bool :=
  match o with
  | .next s => p s
  | .fault _ => false
  | .refused _ => false

/-- The word `w` in flight, and the turns `ts`. -/
def inFlight (w : CmdWord) (ts : List Turn) : State :=
  { State.reset with busy := true, pend := some w, turns := ts }

/-- Nothing in flight, and the turns `ts`. -/
def idle (ts : List Turn) : State := { State.reset with turns := ts }

/-- The word `w` held on the port of an idle core, and the turns `ts`. -/
def heldWord (w : CmdWord) (ts : List Turn) : State := { State.reset with offer := some w, turns := ts }

/-- The response of an ENC stands (section 4, Program 1). -/
def answered (ts : List Turn) : State :=
  { State.reset with rspValid := true, rspData := some 0xA8#8, turns := ts }

theorem test_step_enc : nextMeets (step (State.reset.withFetchWord 24 0x282D7)) (fun s =>
    responseOf s = ⟨true, false, some 0xA8#8, none, none⟩) = true := by decide +kernel

theorem test_step_dec : nextMeets (step (State.reset.withFetchWord 24 0x5FD16)) (fun s =>
    responseOf s = ⟨true, false, some 0xAA#8, none, none⟩) = true := by decide +kernel

theorem test_step_keygen : nextMeets (step (State.reset.withFetchWord 24 0xA82FF)) (fun s =>
    responseOf s = ⟨true, false, none, some 0xA4#8, some 0x43#8⟩) = true := by decide +kernel

theorem test_step_illegal : nextMeets (step (State.reset.withFetchWord 24 0xE82D7)) (fun s =>
    responseOf s = ⟨true, true, none, none, none⟩ && causeCode s == 1) = true := by decide +kernel

theorem test_step_issue_clears_response : nextMeets (step (answered [.offer 0x682A8#20])) (fun s =>
    s.rspData == none && s.rspValid == false && s.pend == some 0x682A8#20) = true := by decide

theorem test_step_hold : nextMeets (step (inFlight 0x3FFFF#20 [.offer 0x7FF0F#20])) (fun s =>
    s.pend == some 0x3FFFF#20 && s.offer == some 0x7FF0F#20) = true := by decide

theorem test_step_reset_discards : nextMeets (step (inFlight 0x7FF0F#20 [.reset false])) (fun s =>
    coreOf s == coreOf State.reset) = true := by decide

theorem test_step_read : nextMeets (step (answered [.read])) (fun s =>
    s.hostSample == some ⟨true, false, true, some 0xA8#8, none, none⟩) = true := by decide

/-- 10_state.md R24: the KEYGEN response fields hold NONE after an ENC. -/
theorem test_step_readOfNone : step (answered [.useField .k1]) = .fault (.readOfNone (.rsp .k1)) := rfl

/-- 70_reset_and_hazards.md R95: "While it is 1, `cmd_ready = 0`". -/
theorem test_step_rst_held : nextMeets (step { idle [.offer 0x00000#20] with rst := true }) (fun s =>
    s.busy == false && s.offer == some 0x00000#20) = true := by decide

/-! ### The host boundary (section 3.9) and the assembler (30_encoding.md R45) -/

/-- A string as its characters, from its digits. -/
def digits (bits : List Nat) : List Char := bits.map fun b => if b = 1 then '1' else '0'

theorem test_adapter_valid :
    requestWord (.encrypt (digits [1, 1, 0, 1, 0, 1, 1, 1]) (digits [1, 0, 1, 0, 0, 0, 0, 0, 1, 0])) = 0x282D7#20 := by
  decide

theorem test_adapter_short_block :
    requestFailures (.encrypt (digits [1, 1, 0, 1, 0, 1, 1]) (digits [1, 0, 1, 0, 0, 0, 0, 0, 1, 0])) =
      [.invalidLength .block] := by decide

theorem test_adapter_long_key :
    requestFailures (.generateSubkeys (digits [1, 0, 1, 0, 0, 0, 0, 0, 1, 0, 1])) = [.invalidLength .key] := by decide

theorem test_adapter_bad_character :
    requestFailures (.encrypt (digits [1, 1, 0, 1, 0, 1, 1] ++ ['x']) (digits [1, 0, 1, 0, 0, 0, 0, 0, 1, 0])) =
      [.invalidCharacter .block] := by decide

/-- Which of the two is reported is open (60_exceptions.md R88); that both failed is not. -/
theorem test_adapter_two_failures :
    requestFailures (.encrypt (digits [1, 1, 0, 1, 0, 1, 1] ++ ['x']) (digits [1, 0, 1, 0, 0, 0, 0, 0, 1])) =
      [.invalidCharacter .block, .invalidLength .key] := by decide

theorem test_assemble_program_2 :
    assembleText (".cmd   0xE82D7   ; op = 11, reserved\nENC    0x00, 0x000".toList) = .ok [0xE82D7#20, 0x00000#20] := by
  decide

theorem test_assemble_enc : assembleText "ENC 0b11010111, 0b1010000010".toList = .ok [0x282D7#20] := by decide

theorem test_assemble_refuses : assembleText "KEYGEN 0b101000001".toList = .error (.binaryLiteral true false) ∧
    assembleText "DEC 0x100, 0x000".toList = .error .hexTooLarge := by decide

/-! ### Witnesses: states and operands that meet the statements' hypotheses -/

theorem inFlight_inv (w : CmdWord) (ts : List Turn) : Inv (inFlight w ts) := by
  constructor <;> simp [inFlight, State.reset, NoResults]

theorem idle_inv (ts : List Turn) : Inv (idle ts) := by
  constructor <;> simp [idle, State.reset, NoResults]

theorem answered_inv (ts : List Turn) : Inv (answered ts) := by
  constructor <;> simp [answered, State.reset, NoResults]

theorem inFlight_cleared (w : CmdWord) (ts : List Turn) : ResponseCleared (inFlight w ts) := ⟨rfl, rfl, rfl, rfl, rfl⟩

/-- Each of the four op values occurs. -/
theorem witness_WordDecodesByOpFieldAlone :
    (0x282D7#20).extractLsb' 18 2 = 0b00#2 ∧ (0x682A8#20).extractLsb' 18 2 = 0b01#2 ∧
    (0xA8200#20).extractLsb' 18 2 = 0b10#2 ∧ (0xFFFFF#20).extractLsb' 18 2 = 0b11#2 := by decide

theorem witness_DecodeAndEncodeAgree :
    decode 0xBFFFF#20 = .ok (.keygen 0x3FF#10) ∧ encode (.keygen 0x3FF#10) = 0xBFFFF#20 &&& 0xFFF00#20 := by decide

/-- The largest operands, the largest value of a command word, and the least one too large for it. -/
theorem witness_EncodedWordsAsNumbers :
    (literal 8 ['0', 'x', 'F', 'F'] = .ok 0xFF#8 ∧ literal 10 ['0', 'x', '3', 'F', 'F'] = .ok 0x3FF#10) ∧
    (hexDigits 0 ['F', 'f', 'F', 'f', 'F'] = some 0xFFFFF ∧ 0xFFFFF < 2 ^ 20) ∧
    hexDigits 0 ['1', '0', '0', '0', '0', '0'] = some 0x100000 ∧ 2 ^ 20 ≤ 0x100000 :=
  ⟨⟨rfl, rfl⟩, ⟨rfl, by norm_num⟩, rfl, by norm_num⟩

theorem witness_KeygenIgnoresItsDataField :
    0xA8200#20 &&& 0xC0000#20 = 0x80000#20 ∧ 0xA82FF#20 &&& 0xC0000#20 = 0x80000#20 ∧
    (0xA8200#20).extractLsb' 8 10 = (0xA82FF#20).extractLsb' 8 10 := by decide

/-- A literal too short, one with a bad digit, a hexadecimal one at the top of its field and one just above it, and
one with a character just past the digits. -/
theorem witness_AssemblerReadsExactLiterals :
    (digits [1, 0]).length ≠ 8 ∧ (∃ c ∈ ['0', '2'], c ≠ '0' ∧ c ≠ '1') ∧
    hexDigits 0 ['F', 'F'] = some 255 ∧ 255 < 2 ^ 8 ∧ hexDigits 0 ['1', '0', '0'] = some 256 ∧ 2 ^ 8 ≤ 256 ∧
    ∃ c ∈ ['F', 'g'], c ∉ "0123456789abcdefABCDEF".toList :=
  ⟨by decide, ⟨'2', by decide⟩, rfl, by norm_num, rfl, by norm_num, 'g', by decide⟩

/-- The first and the last output position. -/
theorem witness_PermuteTakesTheTablesPositions : (1 ≤ 1 ∧ 1 ≤ 10) ∧ (1 ≤ 10 ∧ 10 ≤ 10) := by decide

/-- The first and the last string position of a half. -/
theorem witness_RotationMovesPositionsLeft : (1 ≤ 1 ∧ 1 ≤ 5) ∧ (1 ≤ 5 ∧ 5 ≤ 5) := by decide

theorem witness_SboxLookupReadsItsCell :
    sboxRow 0b1111#4 = sboxRow 0b1111#4 ∧ sboxCol 0b1111#4 = sboxCol 0b1111#4 := ⟨rfl, rfl⟩

/-- Keys that differ in a bit K1 does not depend on, and in one K2 does not depend on. -/
theorem witness_SubkeyBitsAreKeyBits :
    (∀ i, i ≠ 8 → i ≠ 5 → (0x120#10).getLsbD i = (0x000#10).getLsbD i) ∧
    (∀ i, i ≠ 6 → i ≠ 3 → (0x048#10).getLsbD i = (0x000#10).getLsbD i) := by
  constructor
  · intro i h1 h2
    by_cases h : i < 10
    · have hi : ∀ i < 10, i ≠ 8 → i ≠ 5 → (0x120#10).getLsbD i = (0x000#10).getLsbD i := by decide
      exact hi i h h1 h2
    · rw [BitVec.getLsbD_of_ge _ _ (by omega), BitVec.getLsbD_of_ge _ _ (by omega)]
  · intro i h1 h2
    by_cases h : i < 10
    · have hi : ∀ i < 10, i ≠ 6 → i ≠ 3 → (0x048#10).getLsbD i = (0x000#10).getLsbD i := by decide
      exact hi i h h1 h2
    · rw [BitVec.getLsbD_of_ge _ _ (by omega), BitVec.getLsbD_of_ge _ _ (by omega)]

theorem witness_DifferentKeysGiveDifferentSubkeys :
    keySched sdesTables 0x282#10 = keySched sdesTables 0x282#10 := rfl

theorem witness_CipherRunsTheSixSteps : keySched sdesTables 0x282#10 = (0xA4#8, 0x43#8) := by decide

/-- An entry 0 in P10 and an entry 11 in P8. -/
theorem witness_TableCheckAcceptsExactlyLegalRecords :
    (0 ∈ ({ supplied with p10 := [0] } : RawTables).p10 ++ supplied.p8) ∧
    (11 ∈ supplied.p10 ++ ({ supplied with p8 := [11] } : RawTables).p8 ∧ 10 < 11) ∧
    supplied.check = .ok sdesTables := by decide

/-- ENC, DEC and KEYGEN words in flight in a state Issue leaves. -/
theorem witness_commands_complete :
    ResponseCleared (inFlight 0x282D7#20 []) ∧ ResponseCleared (inFlight 0x682A8#20 []) ∧
    ResponseCleared (inFlight 0xA8200#20 []) :=
  ⟨inFlight_cleared _ _, inFlight_cleared _ _, inFlight_cleared _ _⟩

/-- A reserved word in flight with the core's turn next; a cleared response; a word with another op. -/
theorem witness_ReservedOpRaisesIllegalCommand :
    (inFlight 0xC0000#20 [.complete]).turns = .complete :: [] ∧ (inFlight 0xC0000#20 [.complete]).busy = true ∧
    (inFlight 0xC0000#20 [.complete]).pend = some 0xC0000#20 ∧ (0xC0000#20).extractLsb' 18 2 = 0b11#2 ∧
    ResponseCleared (inFlight 0xC0000#20 []) ∧ (0xBFFFF#20).extractLsb' 18 2 ≠ 0b11#2 :=
  ⟨rfl, rfl, rfl, by decide, inFlight_cleared _ _, by decide⟩

/-- A word of each op in flight with the core's turn next, and the core's turn with nothing in flight. -/
theorem witness_CompleteWritesByOpField :
    (∀ w ∈ [0x3FFFF#20, 0x7FFFF#20, 0xBFFFF#20, 0xFFFFF#20], (inFlight w [.complete]).turns = .complete :: [] ∧
      (inFlight w [.complete]).busy = true ∧ (inFlight w [.complete]).pend = some w) ∧
    [0x3FFFF#20, 0x7FFFF#20, 0xBFFFF#20, 0xFFFFF#20].map (fun w => w.extractLsb' 18 2) =
      [0b00#2, 0b01#2, 0b10#2, 0b11#2] ∧
    (idle [.complete]).turns = .complete :: [] ∧ (idle [.complete]).busy = false :=
  ⟨fun _ _ => ⟨rfl, rfl, rfl⟩, by decide, rfl, rfl⟩

theorem witness_StepRunsTheCommandInFlight :
    (inFlight 0x282D7#20 [.complete]).busy = true ∧ (inFlight 0x282D7#20 [.complete]).pend = some 0x282D7#20 ∧
    decode 0x282D7#20 = .ok (.enc 0xD7#8 0x282#10) ∧ (inFlight 0x282D7#20 [.complete]).turns = .complete :: [] ∧
    (inFlight 0x282D7#20 []).turns = [] := by decide

theorem witness_PlacedWordIsRunNext : decodeTableWord 24 0xBFFFF = some (.keygen 0x3FF#10) := by decide

/-- A word offered and a word held, the core ready and the core busy; a withdrawal. -/
theorem witness_IssueCapturesTheWord :
    (heldWord 0xFFFFF#20 [.accept]).turns = .accept :: [] ∧ (heldWord 0xFFFFF#20 [.accept]).offer = some 0xFFFFF#20 ∧
    (heldWord 0xFFFFF#20 [.accept]).busy = false ∧ (heldWord 0xFFFFF#20 [.accept]).rst = false ∧
    (inFlight 0#20 [.accept]).turns = .accept :: [] ∧ (inFlight 0#20 [.accept]).busy = true ∧
    (heldWord 0#20 [.withdraw]).turns = .withdraw :: [] ∧
    ((idle [.offer 0xFFFFF#20]).turns = .offer 0xFFFFF#20 :: [] ∧ (idle [.offer 0xFFFFF#20]).busy = false ∧
      (idle [.offer 0xFFFFF#20]).rst = false) ∧
    (inFlight 0#20 [.offer 0xFFFFF#20]).turns = .offer 0xFFFFF#20 :: [] ∧
    (inFlight 0#20 [.offer 0xFFFFF#20]).busy = true := by decide

theorem witness_HeldCommandIsTakenAfterComplete :
    Inv (inFlight 0x3FFFF#20 [.offer 0x7FF0F#20]) ∧ (inFlight 0x3FFFF#20 [.offer 0x7FF0F#20]).busy = true ∧
    (inFlight 0x3FFFF#20 [.offer 0x7FF0F#20]).pend = some 0x3FFFF#20 ∧
    (inFlight 0x3FFFF#20 [.offer 0x7FF0F#20]).turns = [.offer 0x7FF0F#20] :=
  ⟨inFlight_inv _ _, rfl, rfl, rfl⟩

/-- A command held while another is in flight, the core's turn next. -/
def holding : State := { inFlight 0x3FFFF#20 [.complete] with offer := some 0x7FF0F#20 }

theorem witness_KeptOfferIsNotLost :
    holding.offer = some 0x7FF0F#20 ∧ (∀ u rest, holding.turns = u :: rest → u.keepsOffer 0x7FF0F#20) ∧
    ∃ t, step holding = .next t := by
  refine ⟨rfl, ?_, ?_⟩
  · intro u rest h
    cases h
    trivial
  · exact ⟨_, step_complete holding 0x3FFFF#20 [] rfl rfl rfl⟩

/-- A read, a use of a field that holds a value, a use of one that holds NONE; ports with NONE fields. -/
theorem witness_ReadSamplesWithoutSideEffect :
    (answered [.read]).turns = .read :: [] ∧ (answered [.useField .data]).turns = .useField .data :: [] ∧
    readField .data (answered [.useField .data]) = some 0xA8#8 ∧
    (answered [.useField .k2]).turns = .useField .k2 :: [] ∧ readField .k2 (answered [.useField .k2]) = none ∧
    (idle []).rspData = none ∧ (idle []).rspK1 = none ∧ (idle []).rspK2 = none := by decide

/-- A KEYGEN response stands. -/
def subkeysShown : State := { State.reset with rspValid := true, rspK1 := some 0xA4#8, rspK2 := some 0x43#8 }

/-- Reset held. -/
def heldInReset (ts : List Turn) : State := { idle ts with rst := true }

theorem heldInReset_inv (ts : List Turn) : Inv (heldInReset ts) := by
  constructor <;> simp [heldInReset, idle, State.reset, NoResults]

theorem subkeysShown_inv : Inv subkeysShown := by
  constructor <;> simp [subkeysShown, State.reset, NoResults]

/-- A block shown, the subkeys shown, nothing shown, `rst` held. -/
theorem witness_PortsShowTheState :
    (Inv (answered []) ∧ (answered []).rst = false ∧ (outPorts (fun _ => 0#8) (answered [])).rspDv = true) ∧
    (Inv subkeysShown ∧ (outPorts (fun _ => 0#8) subkeysShown).rspKv = true) ∧
    (Inv (idle []) ∧ (outPorts (fun _ => 0#8) (idle [])).rspKv = false ∧
      (outPorts (fun _ => 0#8) (idle [])).rspValid = false) ∧
    Inv (heldInReset []) ∧ (heldInReset []).rst = true :=
  ⟨⟨answered_inv _, rfl, rfl⟩, ⟨subkeysShown_inv, rfl⟩, ⟨idle_inv _, rfl, rfl⟩, heldInReset_inv _, rfl⟩

theorem witness_ResetWorksInEveryState :
    (inFlight 0x7FF0F#20 [.reset true]).turns = .reset true :: [] ∧
    (heldInReset [.offer 0#20]).rst = true ∧ (heldInReset [.offer 0#20]).turns = .offer 0#20 :: [] ∧
    (heldInReset [.accept]).turns = .accept :: [] ∧
    (inFlight 0#20 [.reset false, .offer 0#20]).turns = .reset false :: .offer 0#20 :: [] ∧
    (heldInReset [.submit (.generateSubkeys [])]).turns = .submit (.generateSubkeys []) :: [] ∧
    (heldInReset []).turns = [] ∧ (heldInReset []).busy = false ∧
    (heldInReset [.releaseRst, .offer 0#20]).turns = .releaseRst :: .offer 0#20 :: [] := by decide

/-- A step in reset, and a word held over a release of `rst` or a released Reset, with and without an accepting edge
planned. -/
theorem witness_ResetWorksInEveryState_held :
    (Inv (heldInReset [.offer 0#20]) ∧ (heldInReset [.offer 0#20]).rst = true ∧
      ∃ t, step (heldInReset [.offer 0#20]) = .next t) ∧
    (heldWord 0#20 [.releaseRst, .accept]).busy = false ∧ (heldWord 0#20 [.releaseRst, .accept]).offer = some 0#20 ∧
    (heldWord 0#20 [.releaseRst, .accept]).turns = .releaseRst :: .accept :: [] ∧
    (heldWord 0#20 [.releaseRst]).offer = some 0#20 ∧ (heldWord 0#20 [.releaseRst]).turns = [.releaseRst] ∧
    (heldWord 0#20 [.reset false, .accept]).offer = some 0#20 ∧
    (heldWord 0#20 [.reset false, .accept]).turns = .reset false :: .accept :: [] ∧
    (heldWord 0#20 [.reset false]).offer = some 0#20 ∧ (heldWord 0#20 [.reset false]).turns = [.reset false] :=
  ⟨⟨heldInReset_inv _, rfl, _, rfl⟩, rfl, rfl, rfl, rfl, rfl, rfl, rfl, rfl, rfl⟩

theorem witness_EveryStepKeepsTheInterfaceLaws :
    Inv (inFlight 0xC0000#20 [.complete]) ∧ ∃ t, step (inFlight 0xC0000#20 [.complete]) = .next t :=
  ⟨inFlight_inv _ _, _, step_complete _ 0xC0000#20 [] rfl rfl rfl⟩

/-- A use of a field that holds NONE in a state that meets the invariant. -/
theorem witness_OnlyUsingNoneStopsARun :
    Inv (answered [.useField .k1]) ∧
    ∃ g rest, (answered [.useField .k1]).turns = .useField g :: rest ∧ readField g (answered [.useField .k1]) = none :=
  ⟨answered_inv _, .k1, [], rfl, rfl⟩

theorem witness_ResponseDependsOnlyOnTheWord :
    Inv (inFlight 0x682A8#20 [.complete]) ∧ Inv (inFlight 0x682A8#20 [.complete, .read]) ∧
    (inFlight 0x682A8#20 [.complete]).busy = true ∧ (inFlight 0x682A8#20 [.complete]).pend = some 0x682A8#20 ∧
    (inFlight 0x682A8#20 [.complete, .read]).pend = some 0x682A8#20 ∧
    (inFlight 0x682A8#20 [.complete]).turns = .complete :: [] ∧
    (inFlight 0x682A8#20 [.complete, .read]).turns = .complete :: [.read] :=
  ⟨inFlight_inv _ _, inFlight_inv _ _, rfl, rfl, rfl, rfl, rfl⟩

/-- Host turns that leave a command in flight alone. -/
def quietTurns : List Turn := [.offer 0x00001#20, .withdraw, .read]

/-- `quietTurns`, then the core's turn. -/
def quietThenComplete : List Turn := quietTurns ++ [Turn.complete]

theorem witness_CapturedCommandCompletesAfterQuietHostTurns :
    Inv (inFlight 0x282D7#20 quietThenComplete) ∧ (inFlight 0x282D7#20 quietThenComplete).busy = true ∧
    (inFlight 0x282D7#20 quietThenComplete).pend = some 0x282D7#20 ∧ (∀ t ∈ quietTurns, t.isQuiet = true) ∧
    (inFlight 0x282D7#20 quietThenComplete).turns = quietTurns ++ [Turn.complete] :=
  ⟨inFlight_inv _ _, rfl, rfl, by decide, rfl⟩

/-- A response that stands before an Issue, which puts a command in flight, and before a Reset. -/
theorem witness_ResponseLastsUntilIssueOrReset :
    (Inv (answered [.offer 0#20]) ∧ (answered [.offer 0#20]).rspValid = true ∧ (answered [.offer 0#20]).busy = false ∧
      ∃ t, step (answered [.offer 0#20]) = .next t ∧ t.busy = true) ∧
    Inv (answered [.reset false]) ∧ (answered [.reset false]).rspValid = true ∧
    ∃ t, step (answered [.reset false]) = .next t :=
  ⟨⟨answered_inv _, rfl, rfl, _, rfl, rfl⟩, answered_inv _, rfl, _, rfl⟩

theorem witness_KeygenConfiguresNothing :
    Inv (idle [.offer (encode (.keygen 0x3FF#10)), .complete, .offer (encode (.enc 0xFF#8 0x000#10)), .complete]) ∧
    (idle [.offer (encode (.keygen 0x3FF#10)), .complete, .offer (encode (.enc 0xFF#8 0x000#10)), .complete]).busy =
      false ∧
    (idle [.offer (encode (.keygen 0x3FF#10)), .complete, .offer (encode (.enc 0xFF#8 0x000#10)), .complete]).rst =
      false :=
  ⟨idle_inv _, rfl, rfl⟩

theorem witness_DecOfTheCiphertextRestoresTheBlock :
    Inv (idle [.offer (encode (.enc 0xD7#8 0x282#10)), .complete, .offer (encode (.dec 0xA8#8 0x282#10)), .complete]) ∧
    (idle [.offer (encode (.enc 0xD7#8 0x282#10)), .complete, .offer (encode (.dec 0xA8#8 0x282#10)), .complete]).busy =
      false ∧
    (idle [.offer (encode (.enc 0xD7#8 0x282#10)), .complete, .offer (encode (.dec 0xA8#8 0x282#10)), .complete]).rst =
      false ∧
    0xA8#8 = encrypt sdesTables 0xD7#8 0x282#10 :=
  ⟨idle_inv _, rfl, rfl, by decide⟩

/-- A valid request of each kind, to a ready core. -/
theorem witness_AdapterIssuesValidStrings :
    requestFailures (.encrypt (List.replicate 8 '1') (List.replicate 10 '0')) = [] ∧
    requestFailures (.decrypt (List.replicate 8 '0') (List.replicate 10 '1')) = [] ∧
    requestFailures (.generateSubkeys (List.replicate 10 '1')) = [] ∧
    (idle [.submit (.generateSubkeys (List.replicate 10 '1'))]).busy = false ∧
    (idle [.submit (.generateSubkeys (List.replicate 10 '1'))]).rst = false := by decide

theorem witness_AdapterRefusesMalformedStrings :
    requestFailures (.generateSubkeys []) ≠ [] ∧
    (idle [.submit (.generateSubkeys [])]).turns = .submit (.generateSubkeys []) :: [] := by decide

/-- Operands of one character, one blank, a comment; a malformed operand of each length; a line without a command, one
with a command, one with a malformed operand and one with no known mnemonic; texts of one line. -/
theorem witness_AssemblerReadsLinesAndTexts :
    (([' '] : List Char) ≠ [] ∧ (∀ c ∈ [' '] ++ ['\t'] ++ [], isBlank c = true) ∧
      (∀ c ∈ ['0'] ++ ['1'], isBlank c = false ∧ c ≠ ',' ∧ c ≠ ';') ∧ ∃ x, [';', 'x'] = ';' :: x) ∧
    (∃ r, literal 8 ['0', 'b', '1'] = .error r) ∧ (∃ r, literal 10 ['0', 'b', '1'] = .error r) ∧
    ('\n' ∉ [';'] ∧ parseLine [';'] = .ok none ∧ assembleText [';'] = .ok []) ∧
    (parseLine (['.', 'c', 'm', 'd', ' '] ++ ['0', 'x', '0']) = .ok (some (.cmd ['0', 'x', '0'])) ∧
      assembleLine (.cmd ['0', 'x', '0']) = .ok 0#20) ∧
    (parseLine ['.', 'c', 'm', 'd', ' ', '0'] = .ok (some (.cmd ['0'])) ∧ assembleLine (.cmd ['0']) = .error .notALiteral) ∧
    (parseLine ['x'] = .error .unknownMnemonic ∧ assembleText ['x'] = .error .unknownMnemonic) :=
  ⟨⟨by simp, by simp [isBlank], by simp [isBlank], _, rfl⟩, ⟨_, rfl⟩, ⟨_, rfl⟩, by decide, by decide, by decide, by decide⟩

theorem witness_RunOfCommandsEndsWithTheLastResponse :
    (idle (turnsOfWords ([0x282D7#20] ++ [0xFFFFF#20]))).busy = false ∧
    (idle (turnsOfWords ([0x282D7#20] ++ [0xFFFFF#20]))).rst = false ∧
    (idle (turnsOfWords ([0x282D7#20] ++ [0xFFFFF#20]))).turns = turnsOfWords ([0x282D7#20] ++ [0xFFFFF#20]) :=
  ⟨rfl, rfl, rfl⟩

theorem witness_InstancesShareNothing :
    [idle [], idle [.offer 0#20]][1]? = some (idle [.offer 0#20]) ∧
    (∃ t, step (idle [.offer 0#20]) = .next t) ∧ ∃ b, stepBank 1 [idle [], idle [.offer 0#20]] = .next b :=
  ⟨rfl, ⟨_, rfl⟩, _, rfl⟩

end Sys2Proof.Tests
end

/-! PROOFS. The interface state (10_state.md): what one step can do to the core, the interface invariant, the life of
a command from its issue to its response, and a bank of cores. -/

namespace Sys2Proof.Machine

/-! ### The response -/

theorem responseCleared_iff (s : State) :
    ResponseCleared s ↔ responseOf s = ⟨false, false, none, none, none⟩ := by
  simp [ResponseCleared, NoResults, responseOf]

/-- A response stays cleared as long as the core's elements stay (10_state.md R18). -/
theorem ResponseCleared.of_coreOf_eq {s t : State} (h : ResponseCleared s) (hc : coreOf t = coreOf s) :
    ResponseCleared t := by
  have hresp : responseOf t = responseOf s := congrArg CoreElements.response hc
  exact (responseCleared_iff t).mpr (hresp.trans ((responseCleared_iff s).mp h))

theorem issue_responseCleared (w : CmdWord) (s : State) : ResponseCleared (issue w s) :=
  ⟨rfl, rfl, rfl, rfl, rfl⟩

@[simp] theorem responseTo_encode_enc (d : Block) (k : Key) :
    responseTo (encode (.enc d k)) = ⟨true, false, some (encrypt sdesTables d k), none, none⟩ := by
  simp [responseTo, encode]

@[simp] theorem responseTo_encode_keygen (k : Key) :
    responseTo (encode (.keygen k)) =
      ⟨true, false, none, some (keySched sdesTables k).1, some (keySched sdesTables k).2⟩ := by
  simp [responseTo, encode]

/-- A word's response is a block, the two subkeys, or the error (10_state.md R23). -/
theorem responseTo_cases (w : CmdWord) :
    (∃ b, responseTo w = ⟨true, false, some b, none, none⟩) ∨
    (∃ k1 k2, responseTo w = ⟨true, false, none, some k1, some k2⟩) ∨
    responseTo w = ⟨true, true, none, none, none⟩ := by
  obtain h | h | h | h := op_cases (opField w) <;> simp [responseTo, h]

/-- `Complete` of a cleared response gives the word's own response and touches neither `rst` nor the planned turns
(44_cipher_commands.md R75, R79 to R81, 60_exceptions.md R85). -/
theorem completeWord_answers (w : CmdWord) (s : State) (h : ResponseCleared s) :
    ∃ t, completeWord w s = .next t ∧ coreOf t = ⟨false, none, responseTo w⟩ ∧ t.rst = s.rst ∧ t.turns = s.turns := by
  obtain ⟨-, herr, hdata, hk1, hk2⟩ := h
  obtain ⟨hop, h⟩ | ⟨hop, h⟩ | ⟨hop, h⟩ | ⟨hop, h⟩ := completeWord_cases w s
  all_goals exact ⟨_, h, by simp [coreOf, responseOf, responseTo, hop, herr, hdata, hk1, hk2], rfl, rfl⟩

/-! ### What one step can do to the core -/

/-- The four things one step can do to the core's elements and to the level of `rst` (10_state.md R15). -/
inductive CoreMove (s : State) : State → Prop where
  /-- The core's elements stay, and `rst` is not raised. -/
  | keeps {t : State} (core : coreOf t = coreOf s) (rst : t.rst = true → s.rst = true) : CoreMove s t
  /-- `Issue(w)`, enabled where the core is ready (44_cipher_commands.md R74). -/
  | issues (w : CmdWord) (idle : s.busy = false) (released : s.rst = false) : CoreMove s (issue w s)
  /-- `Complete` of the word in flight (R75). -/
  | completes {w : CmdWord} {t : State} (busy : s.busy = true) (pend : s.pend = some w)
      (next : completeWord w s = .next t) : CoreMove s t
  /-- `Reset` (70_reset_and_hazards.md R95). -/
  | resets (held : Bool) : CoreMove s (resetTurn held s)

theorem offerWord_coreMove (w : CmdWord) (s : State) : CoreMove s (offerWord w s) := by
  obtain ⟨hb, hr, h⟩ | ⟨-, h⟩ := offerWord_cases w s
  · rw [h]; exact .issues w hb hr
  · rw [h]; exact .keeps rfl id

theorem acceptHeld_coreMove (s : State) : CoreMove s (acceptHeld s) := by
  obtain ⟨w, -, hb, hr, h⟩ | ⟨-, h⟩ := acceptHeld_cases s
  · rw [h]; exact .issues w hb hr
  · rw [h]; exact .keeps rfl id

theorem submitRequest_coreMove (r : StringRequest) (s : State) : CoreMove s (submitRequest r s) := by
  obtain ⟨-, h⟩ | ⟨-, h⟩ := submitRequest_cases r s
  · rw [h]; exact offerWord_coreMove _ s
  · rw [h]; exact .keeps rfl id

theorem useTurn_coreMove {f : RspField} {s t : State} (h : useTurn f s = .next t) : CoreMove s t := by
  obtain ⟨v, -, hu⟩ | ⟨-, hu⟩ := useTurn_cases f s
  · cases hu.symm.trans h; exact .keeps rfl id
  · cases hu.symm.trans h

theorem completeTurn_coreMove {s t : State} (h : completeTurn s = .next t) : CoreMove s t := by
  cases hb : s.busy with
  | false => cases (completeTurn_idle s hb).symm.trans h; exact .keeps rfl id
  | true =>
    cases hp : s.pend with
    | none => cases (completeTurn_noWord s hb hp).symm.trans h
    | some w => exact .completes hb hp ((completeTurn_inFlight s w hb hp).symm.trans h)

theorem takeTurn_coreMove {u : Turn} {s t : State} (h : takeTurn u s = .next t) : CoreMove s t := by
  cases u with
  | offer w => cases h; exact offerWord_coreMove w s
  | accept => cases h; exact acceptHeld_coreMove s
  | withdraw => cases h; exact .keeps rfl id
  | submit r => cases h; exact submitRequest_coreMove r s
  | read => cases h; exact .keeps rfl id
  | useField f => exact useTurn_coreMove h
  | reset held => cases h; exact .resets held
  | releaseRst => cases h; exact .keeps rfl (absurd · Bool.false_ne_true)
  | complete => exact completeTurn_coreMove h

theorem unplannedTurn_coreMove {s t : State} (h : unplannedTurn s = .next t) : CoreMove s t := by
  cases hb : s.busy with
  | true => exact completeTurn_coreMove ((unplannedTurn_busy s hb).symm.trans h)
  | false => cases (unplannedTurn_idle s hb).symm.trans h; exact acceptHeld_coreMove s

/-- Every step is one move of the core, once the turn it takes is struck from the plan. -/
theorem step_coreMove {s t : State} (h : step s = .next t) : ∃ rest, CoreMove (setTurns rest s) t := by
  cases hs : s.turns with
  | nil => exact ⟨s.turns, unplannedTurn_coreMove ((step_unplanned s hs).symm.trans h)⟩
  | cons u rest => exact ⟨rest, takeTurn_coreMove ((step_planned s u rest hs).symm.trans h)⟩

/-! ### The interface invariant -/

/-- The invariant speaks of the core's elements and of `rst` held, and of nothing else. -/
theorem Inv.of_coreOf_eq {s t : State} (h : Inv s) (hc : coreOf t = coreOf s) (hr : t.rst = true → s.rst = true) :
    Inv t := by
  simp only [coreOf, responseOf, CoreElements.mk.injEq, Response.mk.injEq] at hc
  obtain ⟨hbusy, hpend, hvalid, herr, hdata, hk1, hk2⟩ := hc
  constructor <;> simp only [NoResults, hbusy, hpend, hvalid, herr, hdata, hk1, hk2]
  exacts [h.pendWhileBusy, h.noResponseInFlight, h.clearWhenInvalid, h.noResultOnError, h.blockOrSubkeys,
    h.subkeysTogether, fun ht => h.idleInReset (hr ht)]

theorem Inv.responseCleared_of_invalid {s : State} (h : Inv s) (hv : s.rspValid = false) : ResponseCleared s := by
  obtain ⟨hnone, herr⟩ := h.clearWhenInvalid hv
  exact ⟨hv, herr, hnone⟩

/-- A command in flight shows no response (10_state.md R21). -/
theorem Inv.responseCleared_of_busy {s : State} (h : Inv s) (hb : s.busy = true) : ResponseCleared s :=
  h.responseCleared_of_invalid (h.noResponseInFlight hb)

theorem Inv.rst_of_busy {s : State} (h : Inv s) (hb : s.busy = true) : s.rst = false := by
  by_contra hr
  obtain ⟨hidle, -⟩ := h.idleInReset (Bool.eq_true_of_not_eq_false hr)
  simp [hb] at hidle

theorem reset_inv : Inv State.reset := by
  constructor <;> simp [State.reset, NoResults]

/-- `Reset` establishes the invariant from every state (70_reset_and_hazards.md R95). -/
theorem resetTurn_inv (held : Bool) (s : State) : Inv (resetTurn held s) := by
  constructor <;> simp [NoResults]

/-- `Issue` establishes it wherever `rst` is released (44_cipher_commands.md R74). -/
theorem issue_inv (w : CmdWord) (s : State) (hr : s.rst = false) : Inv (issue w s) := by
  constructor <;> simp [NoResults, hr]

/-- An idle core that shows a word's response meets it. -/
theorem inv_of_answered {w : CmdWord} {t : State} (hc : coreOf t = ⟨false, none, responseTo w⟩) (hr : t.rst = false) :
    Inv t := by
  simp only [coreOf, responseOf, CoreElements.mk.injEq] at hc
  obtain ⟨hb, hp, hresp⟩ := hc
  obtain ⟨b, h⟩ | ⟨k1, k2, h⟩ | h := responseTo_cases w
  all_goals
    simp only [h, Response.mk.injEq] at hresp
    obtain ⟨hvalid, herr, hdata, hk1, hk2⟩ := hresp
    constructor <;> simp [NoResults, hb, hp, hr, hvalid, herr, hdata, hk1, hk2]

theorem CoreMove.inv {s t : State} (hm : CoreMove s t) (h : Inv s) : Inv t := by
  cases hm with
  | keeps hcore hrst => exact h.of_coreOf_eq hcore hrst
  | issues w _ hr => exact issue_inv w s hr
  | completes hb hp hnext =>
    obtain ⟨t', hnext', hcore, hrst, -⟩ := completeWord_answers _ s (h.responseCleared_of_busy hb)
    cases hnext'.symm.trans hnext
    exact inv_of_answered hcore (hrst.trans (h.rst_of_busy hb))
  | resets held => exact resetTurn_inv held s

theorem step_inv {s t : State} (h : Inv s) (hstep : step s = .next t) : Inv t := by
  obtain ⟨rest, hm⟩ := step_coreMove hstep
  exact hm.inv (h.of_coreOf_eq rfl id)

/-! ### From a command in flight to its response -/

theorem offerWord_busy (w : CmdWord) (s : State) (hb : s.busy = true) : offerWord w s = setOffer (some w) s := by
  simp [offerWord, cmdReady, hb]

theorem acceptHeld_busy (s : State) (hb : s.busy = true) : acceptHeld s = s := by
  obtain ⟨w, -, hidle, -⟩ | ⟨-, h⟩ := acceptHeld_cases s
  · simp [hb] at hidle
  · exact h

/-- A quiet turn of the host leaves a core with a command in flight alone (44_cipher_commands.md R76). -/
theorem takeTurn_quiet (u : Turn) (s : State) (hq : u.isQuiet = true) (hb : s.busy = true) :
    ∃ t, takeTurn u s = .next t ∧ coreOf t = coreOf s ∧ t.turns = s.turns := by
  cases u with
  | offer w => exact ⟨_, congrArg Host.Outcome.next (offerWord_busy w s hb), rfl, rfl⟩
  | accept => exact ⟨_, congrArg Host.Outcome.next (acceptHeld_busy s hb), rfl, rfl⟩
  | submit r =>
    obtain ⟨-, h⟩ | ⟨-, h⟩ := submitRequest_cases r s
    · exact ⟨_, congrArg Host.Outcome.next (h.trans (offerWord_busy _ s hb)), rfl, rfl⟩
    · exact ⟨_, congrArg Host.Outcome.next h, rfl, rfl⟩
  | withdraw => exact ⟨_, rfl, rfl, rfl⟩
  | read => exact ⟨_, rfl, rfl, rfl⟩
  | releaseRst => exact ⟨_, rfl, rfl, rfl⟩
  | useField f => cases hq
  | reset held => cases hq
  | complete => cases hq

/-- A run through quiet turns, by induction on their list, comes to a state with the same core elements. -/
theorem run_quiet (quiet tail : List Turn) (k : Nat) (s : State) (hq : ∀ u ∈ quiet, u.isQuiet = true)
    (hb : s.busy = true) (hs : s.turns = quiet ++ tail) :
    ∃ t : State, core.run (quiet.length + k) s = core.run k t ∧ coreOf t = coreOf s ∧ t.turns = tail := by
  induction quiet generalizing s with
  | nil => exact ⟨s, by rw [List.length_nil, Nat.zero_add], rfl, hs⟩
  | cons u us ih =>
    obtain ⟨hu, hus⟩ := List.forall_mem_cons.mp hq
    obtain ⟨v, hv, hvcore, hvturns⟩ := takeTurn_quiet u (setTurns (us ++ tail) s) hu hb
    have hstep : step s = .next v := (step_planned s u (us ++ tail) hs).trans hv
    have hvbusy : v.busy = true := (congrArg CoreElements.busy hvcore).trans hb
    obtain ⟨t, hrun, hcore, hturns⟩ := ih v hus hvbusy hvturns
    refine ⟨t, ?_, hcore.trans hvcore, hturns⟩
    rw [List.length_cons, Nat.succ_add, run_succ_next _ s v hstep, hrun]

/-- The core's turn with a word in flight gives the word's response. -/
theorem step_complete_answers (s : State) (w : CmdWord) (rest : List Turn) (hs : s.turns = .complete :: rest)
    (hb : s.busy = true) (hp : s.pend = some w) (hc : ResponseCleared s) :
    ∃ t, step s = .next t ∧ coreOf t = ⟨false, none, responseTo w⟩ ∧ t.rst = s.rst ∧ t.turns = rest := by
  obtain ⟨t, hnext, ht⟩ := completeWord_answers w (setTurns rest s) hc
  exact ⟨t, (step_complete s w rest hs hb hp).trans hnext, ht⟩

/-- A word offered to a ready core and completed at once gives its response, whatever response stood before
(44_cipher_commands.md R74, R75); the core is then ready for the rest of the run. -/
theorem run_offer_complete (s : State) (w : CmdWord) (rest : List Turn) (hb : s.busy = false) (hr : s.rst = false)
    (hs : s.turns = .offer w :: .complete :: rest) :
    ∃ t : State, (∀ k, core.run (k + 2) s = core.run k t) ∧ coreOf t = ⟨false, none, responseTo w⟩ ∧
      t.rst = false ∧ t.turns = rest := by
  have hissue := step_issue s w (.complete :: rest) hs hb hr
  obtain ⟨t, hstep, hcore, hrst, hturns⟩ :=
    step_complete_answers (issue w (setTurns (.complete :: rest) s)) w rest rfl rfl rfl (issue_responseCleared _ _)
  refine ⟨t, fun k => ?_, hcore, hrst.trans hr, hturns⟩
  rw [run_succ_next (k + 1) s _ hissue, run_succ_next k _ t hstep]

/-! ### A bank of cores -/

theorem stepBank_zero_next_iff (s : State) (rest bank' : List State) :
    stepBank 0 (s :: rest) = .next bank' ↔ ∃ t, step s = .next t ∧ bank' = t :: rest := by
  cases h : step s <;> simp [stepBank, h, eq_comm]

theorem stepBank_succ_next_iff (n : Nat) (b : State) (rest bank' : List State) :
    stepBank (n + 1) (b :: rest) = .next bank' ↔ ∃ rest', stepBank n rest = .next rest' ∧ bank' = b :: rest' := by
  cases h : stepBank n rest <;> simp [stepBank, h, eq_comm]

/-- Where there is a core `n`, a step of the bank is that core's own step, put in its place (10_state.md R29). -/
theorem stepBank_next_iff {bank bank' : List State} {n : Nat} {s : State} (hn : bank[n]? = some s) :
    stepBank n bank = .next bank' ↔ ∃ t, step s = .next t ∧ bank' = bank.set n t := by
  induction bank generalizing bank' n with
  | nil => cases hn
  | cons b rest ih =>
    cases n with
    | zero => cases hn; exact stepBank_zero_next_iff s rest bank'
    | succ n =>
      have hrest : rest[n]? = some s := hn
      rw [stepBank_succ_next_iff]
      constructor
      · rintro ⟨rest', h, rfl⟩
        obtain ⟨t, ht, rfl⟩ := (ih hrest).mp h
        exact ⟨t, ht, rfl⟩
      · rintro ⟨t, ht, rfl⟩
        exact ⟨rest.set n t, (ih hrest).mpr ⟨t, ht, rfl⟩, rfl⟩

theorem stepBank_next {bank : List State} {n : Nat} {s t : State} (hn : bank[n]? = some s) (h : step s = .next t) :
    stepBank n bank = .next (bank.set n t) :=
  (stepBank_next_iff hn).mpr ⟨t, h, rfl⟩

/-! ### Reading the response -/

theorem step_read (s : State) (rest : List Turn) (h : s.turns = .read :: rest) :
    step s = .next (readTurn (setTurns rest s)) := step_planned s _ rest h

theorem step_useField (s : State) (f : RspField) (rest : List Turn) (h : s.turns = .useField f :: rest) :
    step s = useTurn f (setTurns rest s) := step_planned s _ rest h

theorem useTurn_value {f : RspField} {s : State} {v : BitVec 8} (h : readField f s = some v) :
    useTurn f s = .next (setHostValue v s) := by
  simp [useTurn, h]

theorem useTurn_none {f : RspField} {s : State} (h : readField f s = none) :
    useTurn f s = .fault (.readOfNone (.rsp f)) := by
  simp [useTurn, h]

@[simp] theorem readField_setTurns (f : RspField) (ts : List Turn) (s : State) :
    readField f (setTurns ts s) = readField f s := by
  cases f <;> rfl

/-- A field shown as valid is on its port (10_state.md R27). -/
theorem eq_some_getD_of_isSome {α : Type} {o : Option α} (d : α) (h : o.isSome = true) :
    o = some (o.getD d) := by
  obtain ⟨v, rfl⟩ := Option.isSome_iff_exists.mp h
  rfl

/-! ### The statements -/

/-- Settles O39: a step is one move of the core, and each of the four moves keeps the invariant. -/
theorem everyStepKeepsTheInterfaceLaws : Obligations.EveryStepKeepsTheInterfaceLaws :=
  fun _ _ h hstep => step_inv h hstep

/-- Settles O42: quiet turns leave the core as Issue left it, and the core's turn then gives the word's response. -/
theorem capturedCommandCompletesAfterQuietHostTurns : Obligations.CapturedCommandCompletesAfterQuietHostTurns := by
  intro s w quiet rest hinv hb hp hquiet hs
  obtain ⟨u, hrun, hcore, hturns⟩ := run_quiet quiet (.complete :: rest) 1 s hquiet hb hs
  have hubusy : u.busy = true := (congrArg CoreElements.busy hcore).trans hb
  have hupend : u.pend = some w := (congrArg CoreElements.pend hcore).trans hp
  have hucleared : ResponseCleared u := (hinv.responseCleared_of_busy hb).of_coreOf_eq hcore
  obtain ⟨t, hstep, htcore, -, htturns⟩ := step_complete_answers u w rest hturns hubusy hupend hucleared
  exact ⟨t, hrun.trans (run_one u t hstep), congrArg CoreElements.response htcore,
    congrArg CoreElements.busy htcore, congrArg CoreElements.pend htcore, htturns⟩

/-- Settles O44: the two commands are two issues completed at once, and each gives the response of its own word. -/
theorem keygenConfiguresNothing : Obligations.KeygenConfiguresNothing := by
  intro s k1 k2 p rest _ hb hr hs
  obtain ⟨t, htrun, htcore, htrst, htturns⟩ := run_offer_complete s _ _ hb hr hs
  obtain ⟨u, hurun, hucore, -, -⟩ := run_offer_complete t _ _ (congrArg CoreElements.busy htcore) htrst htturns
  have htresp := (congrArg CoreElements.response htcore).trans (responseTo_encode_keygen k1)
  have huresp := (congrArg CoreElements.response hucore).trans (responseTo_encode_enc p k2)
  exact ⟨t, u, (htrun 0).trans (hostRun_zero core t), congrArg Response.k1 htresp, congrArg Response.k2 htresp,
    (htrun 2).trans ((hurun 0).trans (hostRun_zero core u)), huresp⟩

/-- Settles O48: a bank's step writes the stepped core's place and no other. -/
theorem instancesShareNothing : Obligations.InstancesShareNothing := by
  intro bank n s hn
  obtain ⟨hlt, -⟩ := List.getElem?_eq_some_iff.mp hn
  constructor
  · intro t ht
    exact ⟨bank.set n t, stepBank_next hn ht, List.getElem?_set_self hlt⟩
  · intro bank' hbank
    obtain ⟨t, -, rfl⟩ := (stepBank_next_iff hn).mp hbank
    exact ⟨List.length_set, fun m hm => List.getElem?_set_ne hm.symm⟩

/-- Settles O34: a read is `readTurn`, the use of a field is `useTurn`, and the ports show a field or the free bits. -/
theorem readSamplesWithoutSideEffect : Obligations.ReadSamplesWithoutSideEffect := by
  refine ⟨step_read, fun s f rest hs => ⟨fun v hv => ?value, fun hnone => ?none⟩, fun _ => ⟨rfl, rfl, rfl⟩,
    fun s p => ⟨rfl, rfl, ?_, ?_, ?_⟩⟩
  case value => exact (step_useField s f rest hs).trans (useTurn_value ((readField_setTurns f rest s).trans hv))
  case none => exact (step_useField s f rest hs).trans (useTurn_none ((readField_setTurns f rest s).trans hnone))
  all_goals intro h; simp [outPorts, h]

/-- Settles O35, from the invariant: the subkeys come together, and nothing is shown while RSP_VALID is 0. -/
theorem portsShowTheState : Obligations.PortsShowTheState := by
  intro s p hinv
  refine ⟨fun hr => ?ready, fun hr => ?notReady, rfl, rfl, eq_some_getD_of_isSome _, fun hk1 => ?subkeys,
    fun hk1 => ?noSubkeys, fun hv => ?invalid⟩
  case ready => simp [outPorts, cmdReady, hr]
  case notReady => simp [outPorts, cmdReady, hr]
  case subkeys => exact ⟨eq_some_getD_of_isSome _ hk1, eq_some_getD_of_isSome _ (hinv.subkeysTogether.symm.trans hk1)⟩
  case noSubkeys =>
    have hnone : s.rspK1.isSome = false := hk1
    exact ⟨by simpa using hnone, by simpa [hnone] using hinv.subkeysTogether.symm⟩
  case invalid =>
    obtain ⟨-, -, hdata, hk1, -⟩ := hinv.responseCleared_of_invalid hv
    simp [outPorts, rspDv, rspKv, hdata, hk1]

/-- Settles O37: the reset values are those of `State.reset`, and Reset writes them again. -/
theorem resetStateHoldsItsValues : Obligations.ResetStateHoldsItsValues :=
  ⟨rfl, rfl, rfl, rfl, rfl, rfl, rfl, rfl⟩

/-- Settles O38: the reset state is idle with a cleared response. -/
theorem resetStateMeetsTheInterfaceLaws : Obligations.ResetStateMeetsTheInterfaceLaws := reset_inv

end Sys2Proof.Machine

/-! PROOFS. The encoding (30_encoding.md): what a word's op field decodes to, the mask and match rows of the op map,
the encoder's words as numbers, and what the assembler reads. -/

namespace Sys2Proof.Machine

/-! ### The op field and the op map -/

/-- A word decodes by its op field, in one of four ways (30_encoding.md R40, R42). -/
theorem decode_cases (w : CmdWord) :
    (opField w = 0b00#2 ∧ decode w = .ok (.enc (dataField w) (keyField w))) ∨
    (opField w = 0b01#2 ∧ decode w = .ok (.dec (dataField w) (keyField w))) ∨
    (opField w = 0b10#2 ∧ decode w = .ok (.keygen (keyField w))) ∨
    (opField w = 0b11#2 ∧ decode w = .error (.illegalCommand 0b11#2)) := by
  obtain h | h | h | h := op_cases (opField w)
  · exact .inl ⟨h, decode_enc w h⟩
  · exact .inr (.inl ⟨h, decode_dec w h⟩)
  · exact .inr (.inr (.inl ⟨h, decode_keygen w h⟩))
  · exact .inr (.inr (.inr ⟨h, decode_illegal w h⟩))

@[simp] theorem decode_encode (i : Instr) : decode (encode i) = .ok i := by
  cases i with
  | enc d k => simpa [encode] using decode_enc (encode (.enc d k)) (Laws.EncodedOp.enc d k)
  | dec d k => simpa [encode] using decode_dec (encode (.dec d k)) (Laws.EncodedOp.dec d k)
  | keygen k => simpa [encode] using decode_keygen (encode (.keygen k)) (Laws.EncodedOp.keygen k)

/-- A mask over whole fields acts on each field. -/
theorem packWord_and (o o' : BitVec 2) (k k' : Key) (d d' : Block) :
    packWord o k d &&& packWord o' k' d' = packWord (o &&& o') (k &&& k') (d &&& d') := by
  unfold packWord
  rw [BitVec.and_append, BitVec.and_append]

/-- The mask of the op map keeps the op field alone (R40). -/
theorem and_opMask (w : CmdWord) : w &&& 0xC0000#20 = packWord (opField w) 0#10 0#8 := by
  calc w &&& 0xC0000#20 = packWord (opField w) (keyField w) (dataField w) &&& packWord (BitVec.allOnes 2) 0#10 0#8 := by
        rw [packWord_fields]; rfl
    _ = packWord (opField w) 0#10 0#8 := by
        rw [packWord_and, BitVec.and_allOnes, BitVec.and_zero, BitVec.and_zero]

/-- KEYGEN's operand mask keeps the op and key fields (R41). -/
theorem and_keygenMask (w : CmdWord) : w &&& 0xFFF00#20 = packWord (opField w) (keyField w) 0#8 := by
  calc w &&& 0xFFF00#20 = packWord (opField w) (keyField w) (dataField w) &&&
          packWord (BitVec.allOnes 2) (BitVec.allOnes 10) 0#8 := by
        rw [packWord_fields]; rfl
    _ = packWord (opField w) (keyField w) 0#8 := by
        rw [packWord_and, BitVec.and_allOnes, BitVec.and_allOnes, BitVec.and_zero]

/-- A word has the match value of an op exactly where its op field is that op (R40). -/
theorem and_opMask_eq_iff (w : CmdWord) (o : BitVec 2) : w &&& 0xC0000#20 = packWord o 0#10 0#8 ↔ opField w = o := by
  rw [and_opMask]
  exact ⟨fun h => by simpa using congrArg opField h, fun h => by rw [h]⟩

/-- The op map's row of an op value. -/
def rowOf (o : BitVec 2) : OpcodeRow := ⟨packWord o 0#10 0#8, 0xC0000#20⟩

theorem opcodeRows_eq : opcodeRows = [rowOf 0b00#2, rowOf 0b01#2, rowOf 0b10#2, rowOf 0b11#2] := by decide

theorem rowOf_covers (o : BitVec 2) (w : CmdWord) : (rowOf o).covers w = decide (opField w = o) := by
  rw [← decide_eq_decide.mpr (and_opMask_eq_iff w o)]
  rfl

/-- The one row that covers a word is the row of its op field (R43). -/
theorem filter_covers_opcodeRows (w : CmdWord) : opcodeRows.filter (fun r => r.covers w) = [rowOf (opField w)] := by
  rw [opcodeRows_eq]
  obtain h | h | h | h := op_cases (opField w) <;> simp [rowOf_covers, h]

/-! ### The encoder -/

/-- Encoding what a word decodes to keeps its op and key fields, and its data field where the command has one. -/
theorem encode_of_decode {w : CmdWord} {i : Instr} (h : decode w = .ok i) :
    encode i = packWord (opField w) (keyField w) (if opField w = 0b10#2 then 0#8 else dataField w) := by
  obtain ⟨hop, hd⟩ | ⟨hop, hd⟩ | ⟨hop, hd⟩ | ⟨hop, hd⟩ := decode_cases w <;> cases hd.symm.trans h
  all_goals simp [encode, hop]

/-- The word of an op, a key and a data byte as a number (R46). -/
theorem packWord_toNat_or (o : BitVec 2) (k : Key) (d : Block) :
    (packWord o k d).toNat = (o.toNat <<< 18 ||| k.toNat <<< 8 ||| d.toNat) := by
  rw [packWord_toNat, Nat.shiftLeft_or_distrib, ← Nat.shiftLeft_add]

/-! ### The words the assembler emits -/

theorem assembleLine_enc {ds ks : List Char} {d : Block} {k : Key} (hd : literal 8 ds = .ok d)
    (hk : literal 10 ks = .ok k) : assembleLine (.enc ds ks) = .ok (encode (.enc d k)) := by
  rw [assembleLine, hd, hk]; rfl

theorem assembleLine_dec {ds ks : List Char} {d : Block} {k : Key} (hd : literal 8 ds = .ok d)
    (hk : literal 10 ks = .ok k) : assembleLine (.dec ds ks) = .ok (encode (.dec d k)) := by
  rw [assembleLine, hd, hk]; rfl

theorem assembleLine_keygen {ks : List Char} {k : Key} (hk : literal 10 ks = .ok k) :
    assembleLine (.keygen ks) = .ok (encode (.keygen k)) := by
  rw [assembleLine, hk]; rfl

/-- A hexadecimal operand with digits is read where its value is below `2 ^ n`, else it is too large (R45). -/
theorem hexOperand_of_value {n x : Nat} {c : Char} {cs : List Char} (h : hexDigits 0 (c :: cs) = some x) :
    hexOperand n (c :: cs) = if x < 2 ^ n then .ok (BitVec.ofNat n x) else .error .hexTooLarge := by
  simp [hexOperand, h]

theorem hexOperand_value {n x : Nat} {c : Char} {cs : List Char} (h : hexDigits 0 (c :: cs) = some x)
    (hx : x < 2 ^ n) : ∃ v : BitVec n, hexOperand n (c :: cs) = .ok v ∧ v.toNat = x :=
  ⟨BitVec.ofNat n x, (hexOperand_of_value h).trans (if_pos hx), (BitVec.toNat_ofNat x n).trans (Nat.mod_eq_of_lt hx)⟩

theorem hexOperand_tooLarge {n x : Nat} {c : Char} {cs : List Char} (h : hexDigits 0 (c :: cs) = some x)
    (hx : 2 ^ n ≤ x) : hexOperand n (c :: cs) = .error .hexTooLarge :=
  (hexOperand_of_value h).trans (if_neg hx.not_gt)

/-! ### Literals -/

theorem charsOfBits_length {n : Nat} (v : BitVec n) : (charsOfBits v).length = n := by
  simp [charsOfBits]

theorem charsOfBits_all_binary {n : Nat} (v : BitVec n) : (charsOfBits v).all isBinaryChar = true := by
  simp only [charsOfBits, List.all_map, List.all_eq_true]
  intro i _
  dsimp only [Function.comp_apply]
  split <;> rfl

/-- The string of a vector, read back (20_memory.md R30, 60_exceptions.md R87). -/
theorem bitsOfChars_charsOfBits {n : Nat} (v : BitVec n) : bitsOfChars n (charsOfBits v) = v := by
  apply BitVec.eq_of_getElem_eq
  intro i hi
  have hlt : n - 1 - i < n := by omega
  have hback : n - 1 - (n - 1 - i) = i := by omega
  rw [bitsOfChars, ofBits_getElem]
  cases hv : v[i] <;> simp [charsOfBits, List.getD_eq_getElem?_getD, hlt, hback, BitVec.getLsbD_eq_getElem hi, hv]

theorem binaryOperand_charsOfBits {n : Nat} (v : BitVec n) : binaryOperand n (charsOfBits v) = .ok v := by
  simp [binaryOperand, charsOfBits_length, charsOfBits_all_binary, bitsOfChars_charsOfBits]

/-- A binary literal with the wrong number of digits or another character is refused (30_encoding.md R45). -/
theorem binaryOperand_malformed {n : Nat} {ds : List Char} (h : ds.length ≠ n ∨ ∃ c ∈ ds, c ≠ '0' ∧ c ≠ '1') :
    ∃ r, binaryOperand n ds = .error r := by
  refine ⟨_, if_neg fun hgood => ?_⟩
  simp only [Bool.and_eq_true, beq_iff_eq, List.all_eq_true, isBinaryChar, Bool.or_eq_true] at hgood
  obtain ⟨hlen, hbin⟩ := hgood
  obtain h | ⟨c, hc, h0, h1⟩ := h
  · exact h hlen
  · exact (hbin c hc).elim h0 h1

/-- Leading zeros change no value. -/
theorem hexDigits_replicate_zero (zeros : Nat) (cs : List Char) :
    hexDigits 0 (List.replicate zeros '0' ++ cs) = hexDigits 0 cs := by
  induction zeros with
  | zero => rfl
  | succ zeros ih => exact ih

/-- The base-16 digits of a number have it as their value. -/
theorem hexDigits_toDigits (x : Nat) : hexDigits 0 (Nat.toDigits 16 x) = some x := by
  induction x using Nat.strong_induction_on with
  | h x ih =>
    by_cases hx : x < 16
    · simp [Nat.toDigits_of_lt_base hx, hexDigits, hexDigit_digitChar x hx]
    · have hlast := hexDigit_digitChar (x % 16) (Nat.mod_lt x (by norm_num))
      rw [Nat.toDigits_of_base_le (by norm_num) (not_lt.mp hx), hexDigits_append, ih (x / 16) (by omega)]
      simp [hexDigits, hlast, Nat.div_add_mod]

/-- The letter case of the digits changes no value (notes/assumptions/13.md). -/
theorem hexDigits_map_toUpper (acc : Nat) (cs : List Char) : hexDigits acc (cs.map Char.toUpper) = hexDigits acc cs := by
  induction cs generalizing acc with
  | nil => rfl
  | cons c cs ih => simp only [List.map_cons, hexDigits, hexDigit_toUpper, ih]

/-- Only the 22 digit characters have a value. -/
theorem mem_digits_of_hexDigit {c : Char} {d : Nat} (h : hexDigit c = some d) :
    c ∈ "0123456789abcdefABCDEF".toList := by
  have hall : ∀ n < 103, ((48 ≤ n ∧ n ≤ 57) ∨ (65 ≤ n ∧ n ≤ 70) ∨ (97 ≤ n ∧ n ≤ 102)) →
      Char.ofNat n ∈ "0123456789abcdefABCDEF".toList := by decide
  rw [hexDigit_of_toNat c _ rfl] at h
  rw [← Char.ofNat_toNat c]
  split_ifs at h with h1 h2 h3
  · exact hall _ (by omega) (.inl h1)
  · exact hall _ (by omega) (.inr (.inl h2))
  · exact hall _ (by omega) (.inr (.inr h3))

theorem hexDigits_eq_none {acc : Nat} {cs : List Char} (h : ∃ c ∈ cs, hexDigit c = none) : hexDigits acc cs = none := by
  obtain ⟨c, hc, hnone⟩ := h
  obtain ⟨before, after, rfl⟩ := List.append_of_mem hc
  rw [hexDigits_append]
  cases hexDigits acc before <;> simp [hexDigits, hnone]

/-- A hexadecimal literal with a character that is no digit is refused. -/
theorem hexOperand_malformed {n : Nat} {cs : List Char} (h : ∃ c ∈ cs, c ∉ "0123456789abcdefABCDEF".toList) :
    hexOperand n cs = .error .notALiteral := by
  obtain ⟨c, hc, hbad⟩ := h
  have hnone : hexDigits 0 cs = none :=
    hexDigits_eq_none ⟨c, hc, Option.eq_none_iff_forall_ne_some.mpr fun _ hd => hbad (mem_digits_of_hexDigit hd)⟩
  cases cs with
  | nil => rfl
  | cons d rest => simp [hexOperand, hnone]

/-! ### Lines of text -/

/-- An operand as it stands in a line: at least one character, and no blank, comma or comment in it. -/
structure IsOperand (cs : List Char) : Prop where
  nonempty : cs ≠ []
  chars : ∀ c ∈ cs, isBlank c = false ∧ c ≠ ',' ∧ c ≠ ';'

theorem IsOperand.notMem_comma {cs : List Char} (h : IsOperand cs) : ',' ∉ cs :=
  fun hc => (h.chars ',' hc).2.1 rfl

theorem IsOperand.head {cs : List Char} (h : IsOperand cs) : isBlank (cs.head h.nonempty) = false :=
  (h.chars _ (List.head_mem h.nonempty)).1

theorem IsOperand.getLast {cs : List Char} (h : IsOperand cs) : isBlank (cs.getLast h.nonempty) = false :=
  (h.chars _ (List.getLast_mem h.nonempty)).1

theorem IsOperand.trimBlanks {cs : List Char} (h : IsOperand cs) : trimBlanks cs = cs :=
  trimBlanks_of_ends cs h.nonempty h.head h.getLast

theorem ne_comma_of_isBlank {c : Char} (h : isBlank c = true) : c ≠ ',' := by
  rintro rfl
  revert h
  decide

section Line

variable {m gap sp post d k tail : List Char}

/-- A line with one operand (30_encoding.md R45). -/
theorem lineParts_one (hm : m ≠ []) (hmc : ∀ c ∈ m, isBlank c = false ∧ c ≠ ';') (hg : gap ≠ [])
    (hgb : ∀ c ∈ gap, isBlank c = true) (hk : IsOperand k) (hpb : ∀ c ∈ post, isBlank c = true)
    (ht : tail = [] ∨ ∃ x, tail = ';' :: x) : lineParts (m ++ gap ++ (k ++ post ++ tail)) = (m, [k]) := by
  rw [lineParts_code m gap k post tail hm hg hk.nonempty hmc (fun c hc => (hk.chars c hc).2.2) hgb hpb hk.head
    hk.getLast ht, splitAtChar_of_notMem _ _ hk.notMem_comma, List.map_singleton, hk.trimBlanks]

/-- A line with two operands (R45). -/
theorem lineParts_two (hm : m ≠ []) (hmc : ∀ c ∈ m, isBlank c = false ∧ c ≠ ';') (hg : gap ≠ [])
    (hgb : ∀ c ∈ gap, isBlank c = true) (hd : IsOperand d) (hsb : ∀ c ∈ sp, isBlank c = true) (hk : IsOperand k)
    (hpb : ∀ c ∈ post, isBlank c = true) (ht : tail = [] ∨ ∃ x, tail = ';' :: x) :
    lineParts (m ++ gap ++ d ++ ',' :: (sp ++ k ++ post ++ tail)) = (m, [d, k]) := by
  have hassoc : m ++ gap ++ d ++ ',' :: (sp ++ k ++ post ++ tail) =
      m ++ gap ++ ((d ++ ',' :: (sp ++ k)) ++ post ++ tail) := by simp
  have hne : d ++ ',' :: (sp ++ k) ≠ [] := by simp
  have hchars : ∀ c ∈ d ++ ',' :: (sp ++ k), c ≠ ';' := by
    intro c hc
    simp only [List.mem_append, List.mem_cons] at hc
    obtain h | rfl | h | h := hc
    · exact (hd.chars c h).2.2
    · decide
    · exact ne_semicolon_of_isBlank c (hsb c h)
    · exact (hk.chars c h).2.2
  have hfirst : isBlank ((d ++ ',' :: (sp ++ k)).head hne) = false := by
    rw [List.head_append_of_ne_nil hd.nonempty]; exact hd.head
  have hlast : isBlank ((d ++ ',' :: (sp ++ k)).getLast hne) = false := by
    simpa [List.getLast_append_of_ne_nil, hk.nonempty] using hk.getLast
  have hcomma : ',' ∉ sp ++ k := by
    rw [List.mem_append]
    rintro (h | h)
    · exact ne_comma_of_isBlank (hsb _ h) rfl
    · exact hk.notMem_comma h
  rw [hassoc, lineParts_code m gap _ post tail hm hg hne hmc hchars hgb hpb hfirst hlast ht,
    splitAtChar_append _ _ _ hd.notMem_comma, splitAtChar_of_notMem _ _ hcomma, List.map_cons, List.map_singleton,
    hd.trimBlanks, trimBlanks_append_left _ _ hsb, hk.trimBlanks]

/-- A line of blanks and a comment has no mnemonic. -/
theorem parseLine_blank (hgb : ∀ c ∈ gap, isBlank c = true) (ht : tail = [] ∨ ∃ x, tail = ';' :: x) :
    parseLine (gap ++ tail) = .ok none := by
  have hcode : trimBlanks ((gap ++ tail).takeWhile (· != ';')) = [] := by
    rw [takeWhile_code _ _ (fun c hc => ne_semicolon_of_isBlank c (hgb c hc)) ht]
    simpa [trimBlanks] using trimBlanks_append_right gap [] hgb
  simp [parseLine, lineParts, hcode]

/-! What is read from a line's parts, form by form. -/

theorem parseLine_enc {cs : List Char} (h : lineParts cs = (['E', 'N', 'C'], [d, k])) :
    parseLine cs = .ok (some (.enc d k)) := by
  rw [parseLine, h]; rfl

theorem parseLine_dec {cs : List Char} (h : lineParts cs = (['D', 'E', 'C'], [d, k])) :
    parseLine cs = .ok (some (.dec d k)) := by
  rw [parseLine, h]; rfl

theorem parseLine_keygen {cs : List Char} (h : lineParts cs = (['K', 'E', 'Y', 'G', 'E', 'N'], [k])) :
    parseLine cs = .ok (some (.keygen k)) := by
  rw [parseLine, h]; rfl

theorem parseLine_cmd {cs : List Char} (h : lineParts cs = (['.', 'c', 'm', 'd'], [k])) :
    parseLine cs = .ok (some (.cmd k)) := by
  rw [parseLine, h]; rfl

end Line

/-! ### Texts -/

theorem assembleLine_malformedKey {ks : List Char} (h : ∃ r, literal 10 ks = .error r) :
    ∃ r, assembleLine (.keygen ks) = .error r := by
  obtain ⟨r, hr⟩ := h
  exact ⟨r, by rw [assembleLine, hr]; rfl⟩

/-- Malformed operands make a malformed line, whichever of the two is at fault (notes/assumptions/18.md). -/
theorem assembleLine_malformedPair {ds ks : List Char}
    (h : (∃ r, literal 8 ds = .error r) ∨ ∃ r, literal 10 ks = .error r) :
    (∃ r, assembleLine (.enc ds ks) = .error r) ∧ ∃ r, assembleLine (.dec ds ks) = .error r := by
  simp only [assembleLine]
  cases hd : literal 8 ds with
  | error r => exact ⟨⟨r, rfl⟩, r, rfl⟩
  | ok d =>
    cases hk : literal 10 ks with
    | error r => exact ⟨⟨r, rfl⟩, r, rfl⟩
    | ok k => simp [hd, hk] at h

/-! What the first line adds to a list of lines: nothing, its word, or its refusal. -/

theorem assembleLines_cons_blank {l : List Char} (h : parseLine l = .ok none) (ls : List (List Char)) :
    assembleLines (l :: ls) = assembleLines ls := by
  rw [assembleLines, h]; rfl

theorem assembleLines_cons_word {l : List Char} {a : AsmLine} {w : CmdWord} (h : parseLine l = .ok (some a))
    (hw : assembleLine a = .ok w) (ls : List (List Char)) :
    assembleLines (l :: ls) = do return w :: (← assembleLines ls) := by
  simp only [assembleLines, h, hw, bind, Except.bind]

theorem assembleLines_cons_refused {l : List Char} {a : AsmLine} {r : AsmRefusal} (h : parseLine l = .ok (some a))
    (hr : assembleLine a = .error r) (ls : List (List Char)) : assembleLines (l :: ls) = .error r := by
  simp only [assembleLines, h, hr, bind, Except.bind]

theorem assembleLines_cons_unread {l : List Char} {r : AsmRefusal} (h : parseLine l = .error r)
    (ls : List (List Char)) : assembleLines (l :: ls) = .error r := by
  rw [assembleLines, h]; rfl

/-- The words of a list of lines are those of its first line, then those of the others (R45). -/
theorem assembleLines_cons (l : List Char) (ls : List (List Char)) :
    assembleLines (l :: ls) = do return (← assembleLines [l]) ++ (← assembleLines ls) := by
  cases hl : parseLine l with
  | error r => rw [assembleLines_cons_unread hl, assembleLines_cons_unread hl]; rfl
  | ok line =>
    cases line with
    | none => rw [assembleLines_cons_blank hl, assembleLines_cons_blank hl]; exact (bind_pure _).symm
    | some a =>
      cases ha : assembleLine a with
      | error r => rw [assembleLines_cons_refused hl ha, assembleLines_cons_refused hl ha]; rfl
      | ok w => rw [assembleLines_cons_word hl ha, assembleLines_cons_word hl ha]; rfl

theorem assembleText_of_line {l : List Char} (h : '\n' ∉ l) : assembleText l = assembleLines [l] := by
  rw [assembleText, splitAtChar_of_notMem _ _ h]

/-- The words of a text are those of its first line, then those of the text after it (R45). -/
theorem assembleText_append {l : List Char} (h : '\n' ∉ l) (rest : List Char) :
    assembleText (l ++ '\n' :: rest) = do return (← assembleText l) ++ (← assembleText rest) := by
  rw [assembleText_of_line h, assembleText, splitAtChar_append _ _ _ h, assembleLines_cons, ← assembleText]

theorem assembleText_append_ok {l rest : List Char} {a b : List CmdWord} (h : '\n' ∉ l) (ha : assembleText l = .ok a)
    (hb : assembleText rest = .ok b) : assembleText (l ++ '\n' :: rest) = .ok (a ++ b) := by
  rw [assembleText_append h, ha, hb]; rfl

/-- A text with a refused line is refused. -/
theorem assembleText_append_refused {l rest : List Char} (h : '\n' ∉ l)
    (hr : (∃ r, assembleText l = .error r) ∨ ∃ r, assembleText rest = .error r) :
    ∃ r, assembleText (l ++ '\n' :: rest) = .error r := by
  rw [assembleText_append h]
  cases hl : assembleText l with
  | error r => exact ⟨r, rfl⟩
  | ok a =>
    cases hrest : assembleText rest with
    | error r => exact ⟨r, rfl⟩
    | ok b => simp [hl, hrest] at hr

/-! ### The statements -/

/-- Settles O2: a packed word's fields are its parts, and a word is its fields packed. -/
theorem decodeAndEncodeAgree : Obligations.DecodeAndEncodeAgree := by
  refine ⟨decode_encode, fun w i h => ?_⟩
  rw [encode_of_decode h]
  split
  · exact (and_keygenMask w).symm
  · exact packWord_fields w

/-- Settles O3: every emitted word is the word of its command, and a packed word's number is that of its fields. -/
theorem encodedWordsAsNumbers : Obligations.EncodedWordsAsNumbers := by
  refine ⟨fun d k => ⟨rfl, ?enc⟩, fun d k => ⟨rfl, packWord_toNat_or _ k d⟩, fun k => ⟨rfl, ?keygen⟩,
    fun ds ks d k hd hk => ⟨assembleLine_enc hd hk, assembleLine_dec hd hk, assembleLine_keygen hk⟩,
    fun c cs x h => ⟨hexOperand_value h, hexOperand_tooLarge h⟩, by decide⟩
  case enc => exact (packWord_toNat_or _ k d).trans (by simp)
  case keygen => exact (packWord_toNat_or _ k _).trans (by simp)

/-- Settles O4: the row that covers a word, and what the word decodes to, are both those of its op field. -/
theorem opcodeRowsPartitionTheWords : Obligations.OpcodeRowsPartitionTheWords := by
  intro w
  refine ⟨⟨_, filter_covers_opcodeRows w⟩, (and_opMask_eq_iff w 0b00#2).trans ?_, (and_opMask_eq_iff w 0b01#2).trans ?_,
    (and_opMask_eq_iff w 0b10#2).trans ?_, (and_opMask_eq_iff w 0b11#2).trans ?_⟩
  all_goals obtain ⟨hop, hd⟩ | ⟨hop, hd⟩ | ⟨hop, hd⟩ | ⟨hop, hd⟩ := decode_cases w <;> simp [hop, hd]

/-- Settles O6: both words decode to the KEYGEN of their common key field, and completion sees only the command. -/
theorem keygenIgnoresItsDataField : Obligations.KeygenIgnoresItsDataField := by
  intro w v hw hv hkey
  have hdw := decode_keygen w ((and_opMask_eq_iff w 0b10#2).mp hw)
  have hdv := decode_keygen v ((and_opMask_eq_iff v 0b10#2).mp hv)
  have heq : decode v = decode w := by rw [hdw, hdv, keyField, keyField, hkey]
  exact ⟨hdw, heq, fun s => by rw [completeWord, completeWord, heq]⟩

/-- Settles O7: the rules of the two literal forms, and the value of hexadecimal digits. -/
theorem assemblerReadsExactLiterals : Obligations.AssemblerReadsExactLiterals :=
  ⟨fun _ v => binaryOperand_charsOfBits v, fun _ _ h => binaryOperand_malformed h,
    fun _ _ _ _ h => ⟨hexOperand_value h, hexOperand_tooLarge h⟩,
    fun zeros x => (hexDigits_replicate_zero zeros _).trans (hexDigits_toDigits x), hexDigits_map_toUpper 0,
    fun _ _ h => ⟨_, hexOperand_malformed h⟩⟩

/-- Settles O49: a line's parts are its mnemonic and operands, and a text's words are its first line's and the rest's. -/
theorem assemblerReadsLinesAndTexts : Obligations.AssemblerReadsLinesAndTexts := by
  refine ⟨?lines, fun ds ks h => assembleLine_malformedPair h, fun ks hk => assembleLine_malformedKey hk, ?texts⟩
  case lines =>
    intro gap sp post d k tail hg hblank hd hk hchars ht
    simp only [List.mem_append, or_imp, forall_and] at hblank
    obtain ⟨⟨hgb, hsb⟩, hpb⟩ := hblank
    have hd : IsOperand d := ⟨hd, fun c hc => hchars c (List.mem_append_left k hc)⟩
    have hk : IsOperand k := ⟨hk, fun c hc => hchars c (List.mem_append_right d hc)⟩
    exact ⟨parseLine_enc (lineParts_two (by simp) (by simp [isBlank]) hg hgb hd hsb hk hpb ht),
      parseLine_dec (lineParts_two (by simp) (by simp [isBlank]) hg hgb hd hsb hk hpb ht),
      parseLine_keygen (lineParts_one (by simp) (by simp [isBlank]) hg hgb hk hpb ht),
      parseLine_cmd (lineParts_one (by simp) (by simp [isBlank]) hg hgb hk hpb ht),
      parseLine_blank hgb ht, parseLine_blank (gap := []) (by simp) ht⟩
  case texts =>
    intro l hl
    refine ⟨fun hnone => ?blank, fun a w ha hw => ?word, fun a ha ⟨r, hr⟩ => ⟨r, ?refused⟩, fun ⟨r, hr⟩ => ⟨r, ?unread⟩,
      fun rest => ⟨fun a b => assembleText_append_ok hl, assembleText_append_refused hl⟩⟩
    all_goals rw [assembleText_of_line hl]
    case blank => exact assembleLines_cons_blank hnone []
    case word => exact assembleLines_cons_word ha hw []
    case refused => exact assembleLines_cons_refused ha hr []
    case unread => exact assembleLines_cons_unread hr []

/-- Settles O1: the decoder's own four cases, the fields written out. -/
theorem wordDecodesByOpFieldAlone : Obligations.WordDecodesByOpFieldAlone :=
  fun w => ⟨decode_enc w, decode_dec w, decode_keygen w, decode_illegal w⟩

end Sys2Proof.Machine

/-! PROOFS. The permutation unit (40_permutation_unit.md): where `permute` and `rotl` take each bit from, the inverses
IP and IPI, and the check of a table record. -/

namespace Sys2Proof.Machine

/-! ### Permutation by a table -/

/-- A permutation written as a selection of bits (00_scope.md R11): position `t` of an input of width `N` is its bit
`N - t` (R12). -/
theorem permute_eq_pickBits {N M : Nat} (v : BitVec N) (T : PermTable N M) :
    permute v T = pickBits M v (T.entries.map (N - ·)) := by
  refine BitVec.eq_of_getLsbD_eq fun k hk => ?_
  have hlen : M - 1 - k < T.entries.length := by rw [T.shape]; omega
  rw [permute_getLsbD v T k hk, pickBits_getLsbD v _ k hk]
  simp [List.getD_eq_getElem?_getD, hlen]

/-- `permute` by `U`, then by a table `T` that undoes it, takes every bit back to its own place. -/
theorem permute_permute_of_undoes (T U : PermTable 8 8) (h : UndoesEntries U.entries T.entries) (x : Block) :
    permute (permute x U) T = x := by
  refine BitVec.eq_of_getLsbD_eq fun k hk => ?_
  obtain ⟨hpos, hle⟩ := permTable_entry_inRange T (8 - 1 - k) (by omega)
  have hback := h (8 - 1 - k) (by omega)
  rw [permute_getLsbD _ T k hk, permute_getLsbD x U _ (by omega)]
  congr 1
  rw [show 8 - 1 - (8 - T.entries.getD (8 - 1 - k) 0) = T.entries.getD (8 - 1 - k) 0 - 1 by omega, hback]
  omega

/-! ### Rotation -/

/-- `rotl` by `n` takes bit `i` to bit `i + n`, counted modulo the width. -/
theorem rotl_getLsbD_add_mod {N : Nat} (v : BitVec N) (n i : Nat) (hi : i < N) :
    (rotl v n).getLsbD ((i + n) % N) = v.getLsbD i := by
  have hn : n % N < N := Nat.mod_lt n (by omega)
  rw [rotl_getLsbD v n _ (Nat.mod_lt _ (by omega)), Nat.add_mod_eq_ite, Nat.mod_eq_of_lt hi]
  by_cases hwrap : N ≤ i + n % N
  · rw [if_pos hwrap, if_pos (by omega)]
    congr 1; omega
  · rw [if_neg hwrap, if_neg (by omega), Nat.add_sub_cancel]

/-- Every bit of a vector of width `N` is the one some bit moves to when all move up by `n`. -/
theorem exists_add_mod_eq {N k : Nat} (n : Nat) (hk : k < N) : ∃ i < N, (i + n) % N = k := by
  have hn : n % N < N := Nat.mod_lt n (by omega)
  refine ⟨(k + (N - n % N)) % N, Nat.mod_lt _ (by omega), ?_⟩
  calc ((k + (N - n % N)) % N + n) % N = (k + (N - n % N) + n % N) % N := by rw [Nat.mod_add_mod, Nat.add_mod_mod]
    _ = (k + N) % N := by rw [Nat.add_assoc, Nat.sub_add_cancel hn.le]
    _ = k := by rw [Nat.add_mod_right, Nat.mod_eq_of_lt hk]

/-- Where every bit moves up by `n` settles the whole vector: it is the rotation by `n`. -/
theorem eq_rotl_of_getLsbD_add_mod {N : Nat} {u v : BitVec N} {n : Nat}
    (h : ∀ i < N, u.getLsbD ((i + n) % N) = v.getLsbD i) : u = rotl v n := by
  refine BitVec.eq_of_getLsbD_eq fun k hk => ?_
  obtain ⟨i, hi, rfl⟩ := exists_add_mod_eq n hk
  rw [h i hi, rotl_getLsbD_add_mod v n i hi]

theorem rotl_mod_width {N : Nat} (v : BitVec N) (n : Nat) : rotl v n = rotl v (n % N) :=
  eq_rotl_of_getLsbD_add_mod fun i hi => by rw [Nat.add_mod_mod, rotl_getLsbD_add_mod v n i hi]

@[simp] theorem rotl_zero {N : Nat} (v : BitVec N) : rotl v 0 = v :=
  (eq_rotl_of_getLsbD_add_mod fun i hi => by rw [Nat.add_zero, Nat.mod_eq_of_lt hi]).symm

@[simp] theorem rotl_width {N : Nat} (v : BitVec N) : rotl v N = v := by
  rw [rotl_mod_width, Nat.mod_self, rotl_zero]

theorem rotl_rotl {N : Nat} (v : BitVec N) (a b : Nat) : rotl (rotl v a) b = rotl v (a + b) :=
  eq_rotl_of_getLsbD_add_mod fun i hi => by
    have hmoved : (i + a) % N < N := Nat.mod_lt _ (by omega)
    rw [← Nat.add_assoc, ← Nat.mod_add_mod, rotl_getLsbD_add_mod _ b _ hmoved, rotl_getLsbD_add_mod v a i hi]

/-- The string position `((p - 1 - n) mod N) + 1` of 40_permutation_unit.md R56 is the bit `n` places above the bit of
position `p`. -/
theorem bit_of_rotated_position {N p : Nat} (n : Nat) (hp : 1 ≤ p) (hle : p ≤ N) :
    N - (((p + N - 1 - n % N) % N) + 1) = (N - p + n) % N := by
  have hn : n % N < N := Nat.mod_lt n (by omega)
  rw [Nat.add_mod_eq_ite, Nat.mod_eq_of_lt (show N - p < N by omega)]
  by_cases hwrap : p ≤ n % N
  · rw [if_pos (by omega), Nat.mod_eq_of_lt (by omega)]
    omega
  · rw [if_neg (by omega), show p + N - 1 - n % N = p - 1 - n % N + N by omega, Nat.add_mod_right,
      Nat.mod_eq_of_lt (by omega)]
    omega

end Sys2Proof.Machine

namespace Sys2Proof

/-! ### The check of a table record -/

theorem permTable_check_eq_ok_iff {N M : Nat} {t : TableName} {l : List Nat} {T : PermTable N M} :
    PermTable.check N M t l = .ok T ↔ l = T.entries := by
  constructor
  · intro h
    unfold PermTable.check at h
    split at h
    · split at h
      · cases h; rfl
      · cases h
    · cases h
  · rintro rfl
    rw [PermTable.check, dif_pos T.shape, dif_pos T.inRange]

theorem sbox_check_eq_ok_iff {t : TableName} {l : List (List Nat)} {S : SBox} :
    SBox.check t l = .ok S ↔ l = S.rows := by
  constructor
  · intro h
    unfold SBox.check at h
    split at h
    · split at h
      · cases h; rfl
      · cases h
    · cases h
  · rintro rfl
    rw [SBox.check, dif_pos S.shape, dif_pos S.inRange]

/-- A chain of checks succeeds where the first succeeds and the rest succeeds on its result. -/
theorem except_bind_eq_ok_iff {ε α β : Type} {x : Except ε α} {f : α → Except ε β} {b : β} :
    x >>= f = .ok b ↔ ∃ a, x = .ok a ∧ f a = .ok b := by
  cases x with
  | ok a => simp [bind, Except.bind]
  | error e => simp [bind, Except.bind]

/-- The plain lists of a table record. -/
def rawOf (T : SdesTables) : RawTables :=
  ⟨T.p10.entries, T.p8.entries, T.ip.entries, T.ipi.entries, T.ep.entries, T.p4.entries, T.s0.rows, T.s1.rows⟩

theorem check_eq_ok_iff {r : RawTables} {T : SdesTables} : r.check = .ok T ↔ r = rawOf T := by
  obtain ⟨l10, l8, lip, lipi, lep, l4, m0, m1⟩ := r
  simp only [RawTables.check, except_bind_eq_ok_iff, permTable_check_eq_ok_iff, sbox_check_eq_ok_iff]
  constructor
  · rintro ⟨p10, rfl, p8, rfl, ip, rfl, ipi, rfl, ep, rfl, p4, rfl, s0, rfl, s1, rfl, hinverse⟩
    split at hinverse
    · cases hinverse; rfl
    · cases hinverse
  · intro h
    cases h
    exact ⟨T.p10, rfl, T.p8, rfl, T.ip, rfl, T.ipi, rfl, T.ep, rfl, T.p4, rfl, T.s0, rfl, T.s1, rfl,
      dif_pos ⟨T.ipiUndoesIp, T.ipUndoesIpi⟩⟩

theorem wellFormed_iff {r : RawTables} : r.wellFormed = true ↔ ∃ T, r = rawOf T := by
  simp only [← check_eq_ok_iff, RawTables.wellFormed]
  cases r.check with
  | ok T => simp
  | error e => simp

/-- A record that passes has only entries 1 to 10 in the two tables over a width of 10 (40_permutation_unit.md R47). -/
theorem entry_inRange_of_wellFormed {r : RawTables} {t : Nat} (h : r.wellFormed = true) (ht : t ∈ r.p10 ++ r.p8) :
    1 ≤ t ∧ t ≤ 10 := by
  obtain ⟨T, rfl⟩ := wellFormed_iff.mp h
  rcases List.mem_append.mp ht with hp10 | hp8
  · exact T.p10.inRange t hp10
  · exact T.p8.inRange t hp8

end Sys2Proof

namespace Sys2Proof.Machine

/-! ### The statements -/

/-- Settles O8: bit `M - i` is the one list element `i - 1` names, and an entry of a table is a position. -/
theorem permuteTakesTheTablesPositions : Obligations.PermuteTakesTheTablesPositions := by
  refine ⟨fun N M T v i hi hM => ?_, by decide⟩
  have hbit := permute_getLsbD v T (M - i) (by omega)
  have hlt := permute_index_lt T (M - i) (by omega)
  rw [show M - 1 - (M - i) = i - 1 by omega] at hbit hlt
  exact ⟨hlt, hbit⟩

/-- Settles O11: the two facts the record carries, one for each order. -/
theorem ipAndIpiAreInverse : Obligations.IpAndIpiAreInverse := fun T x =>
  ⟨permute_permute_of_undoes T.ipi T.ip T.ipUndoesIpi x, permute_permute_of_undoes T.ip T.ipi T.ipiUndoesIp x⟩

/-- Settles O12: each law follows from where `rotl` moves a bit. -/
theorem rotationMovesPositionsLeft : Obligations.RotationMovesPositionsLeft := by
  refine fun N v => ⟨fun n p hp hle => ?_, rotl_mod_width v, rotl_zero v, rotl_width v, rotl_rotl v⟩
  rw [bit_of_rotated_position n hp hle, rotl_getLsbD_add_mod v n (N - p) (by omega)]

/-- Settles O23: the check returns the lists it was given, and every list of a record passes its own check. -/
theorem tableCheckAcceptsExactlyLegalRecords : Obligations.TableCheckAcceptsExactlyLegalRecords := by
  refine ⟨fun r T => check_eq_ok_iff, fun r t hout ht => Bool.eq_false_iff.mpr fun hwf => ?_⟩
  have hin := entry_inRange_of_wellFormed hwf ht
  omega

/-- Settles O9: a rearrangement of at most ten numbers, and the eight entries of IP, are checked by counting. -/
theorem tablesHaveTheirShapes : Obligations.TablesHaveTheirShapes := by
  refine ⟨?p10, ?p8, ?ip, ?ipi, ?ipiUndoesIp, ?ep, ?p4⟩
  case ipiUndoesIp => exact sdesTables.ipiUndoesIp
  all_goals decide

/-- Settles O10: each list of bit indices is the table's list of positions, read by `permute_eq_pickBits`. -/
theorem tablesGiveTheSpecsBitForms : Obligations.TablesGiveTheSpecsBitForms :=
  ⟨fun k => permute_eq_pickBits k tableP10, fun v => permute_eq_pickBits v tableP8,
    fun x => permute_eq_pickBits x tableIP, fun x => permute_eq_pickBits x tableIPI,
    fun r => permute_eq_pickBits r tableEP, fun s => permute_eq_pickBits s tableP4⟩

end Sys2Proof.Machine

/-! PROOFS. The S-box lookup (41_sbox.md): the cell an input addresses, and the entry read there. -/

namespace Sys2Proof.Machine

/-! ### The addressed cell -/

theorem bits2_toNat (hi lo : Bool) : (bits2 hi lo).toNat = 2 * hi.toNat + lo.toNat := by
  cases hi <;> cases lo <;> rfl

/-- The number of two bits gives both back: sixteen cases. -/
theorem bits2_toNat_inj :
    ∀ {hi lo hi' lo' : Bool}, (bits2 hi lo).toNat = (bits2 hi' lo').toNat ↔ hi = hi' ∧ lo = lo' := by
  decide

/-- "the map from `x` to `(row, col)` is a bijection" (41_sbox.md R59): row and column together hold all four bits. -/
theorem eq_of_sboxRow_eq_of_sboxCol_eq {x y : BitVec 4} (hrow : sboxRow y = sboxRow x)
    (hcol : sboxCol y = sboxCol x) : y = x := by
  obtain ⟨h3, h0⟩ := bits2_toNat_inj.mp hrow
  obtain ⟨h2, h1⟩ := bits2_toNat_inj.mp hcol
  refine BitVec.eq_of_getElem_eq fun i hi => ?_
  match i with
  | 0 => exact h0
  | 1 => exact h1
  | 2 => exact h2
  | 3 => exact h3

/-- The two-bit output loses nothing of the cell, since an entry is at most 3 (41_sbox.md R62). -/
theorem sbox_toNat (x : BitVec 4) (S : SBox) : (sbox x S).toNat = sboxCell S (sboxRow x) (sboxCol x) :=
  (BitVec.toNat_ofNat _ 2).trans <|
    Nat.mod_eq_of_lt <| Nat.lt_succ_of_le <| sboxCell_le S _ _ (sboxRow_lt x) (sboxCol_lt x)

/-! ### The statements -/

/-- Settles O13: the cell addressed lies in the table, so its entry fits in the two bits of the output. -/
theorem sboxLookupReadsItsCell : Obligations.SboxLookupReadsItsCell := fun S x =>
  ⟨bits2_toNat x[3] x[0], bits2_toNat x[2] x[1], sbox_toNat x S, Nat.le_of_lt_succ (sbox x S).isLt,
    fun _ => eq_of_sboxRow_eq_of_sboxCol_eq⟩

/-- Settles O14: the sixteen inputs, looked up one by one. -/
theorem sboxesMatchTheFlatTable : Obligations.SboxesMatchTheFlatTable := by
  constructor
  case left => decide
  case right => decide

end Sys2Proof.Machine

/-! PROOFS. The key schedule (42_key_schedule.md): its rotations add up, each subkey bit is one bit of the key, and the
two subkeys together hold every bit of the key. -/

namespace Sys2Proof.Machine

/-! ### Halves and selections, bit by bit -/

theorem join_getLsbD {h : Nat} (l r : BitVec h) (i : Nat) :
    (join l r).getLsbD i = if i < h then r.getLsbD i else l.getLsbD (i - h) := by
  rw [join, BitVec.getLsbD_append]

theorem left_getLsbD {h i : Nat} (x : BitVec (h + h)) (hi : i < h) : (left h x).getLsbD i = x.getLsbD (h + i) := by
  simp [left, hi]

theorem right_getLsbD {h i : Nat} (x : BitVec (h + h)) (hi : i < h) : (right h x).getLsbD i = x.getLsbD i := by
  simp [right, hi]

/-- A selection of as many bits as its width holds the bits it lists, and nothing else. -/
theorem pickBits_eq_iff {n m : Nat} {v w : BitVec m} {l : List Nat} (hlen : l.length = n) :
    pickBits n v l = pickBits n w l ↔ ∀ i ∈ l, v.getLsbD i = w.getLsbD i := by
  constructor
  · intro h i hi
    obtain ⟨j, hj, rfl⟩ := List.getElem_of_mem hi
    have hplace : n - 1 - j < n := by omega
    have hbit := congrArg (BitVec.getLsbD · (n - 1 - j)) h
    rwa [pickBits_getLsbD v l _ hplace, pickBits_getLsbD w l _ hplace, show n - 1 - (n - 1 - j) = j by omega,
      List.getD_eq_getElem _ _ hj] at hbit
  · intro h
    refine BitVec.eq_of_getLsbD_eq fun k hk => ?_
    have hlt : n - 1 - k < l.length := by omega
    rw [pickBits_getLsbD v l k hk, pickBits_getLsbD w l k hk, List.getD_eq_getElem _ _ hlt]
    exact h _ (List.getElem_mem hlt)

/-! ### The rotations of the schedule -/

/-- Rotating both halves twice is rotating them once by the sum (42_key_schedule.md R69). -/
theorem rotateHalves_rotateHalves (h : KHalf × KHalf) (a b : Nat) :
    rotateHalves (rotateHalves h a) b = rotateHalves h (a + b) :=
  Prod.ext (rotl_rotl h.1 a b) (rotl_rotl h.2 a b)

/-- Each subkey is formed from the original halves, rotated by 1 for K1 and by 3 for K2 (R69). -/
theorem keySched_eq (T : SdesTables) (key : Key) :
    keySched T key =
      (subkeyOf T (rotateHalves (keyHalves T key) 1), subkeyOf T (rotateHalves (keyHalves T key) 3)) :=
  congrArg (Prod.mk _ <| subkeyOf T ·) (rotateHalves_rotateHalves (keyHalves T key) 1 2)

/-! ### The key bit behind each subkey bit -/

/-- The bit `rotl` by `n` puts in place `i` of a vector of width `N`. -/
def rotlSource (N n i : Nat) : Nat := if i < n % N then N - n % N + i else i - n % N

theorem rotlSource_lt {N n i : Nat} (hi : i < N) : rotlSource N n i < N := by
  unfold rotlSource; split <;> omega

theorem rotl_getLsbD_eq {N : Nat} (v : BitVec N) (n : Nat) {i : Nat} (hi : i < N) :
    (rotl v n).getLsbD i = v.getLsbD (rotlSource N n i) := by
  rw [rotl_getLsbD v n i hi, rotlSource, apply_ite v.getLsbD]

/-- The bit of P10's output that stands in place `i` once both halves are rotated by `n`: it stays in its half. -/
def halvesSource (n i : Nat) : Nat := if i < 5 then rotlSource 5 n i else 5 + rotlSource 5 n (i - 5)

theorem rotatedHalves_getLsbD (p : BitVec (5 + 5)) (n : Nat) {i : Nat} (hi : i < 10) :
    (join (rotl (left 5 p) n) (rotl (right 5 p) n)).getLsbD i = p.getLsbD (halvesSource n i) := by
  rw [join_getLsbD, halvesSource]
  split
  case isTrue hlow => rw [rotl_getLsbD_eq _ n hlow, right_getLsbD p (rotlSource_lt hlow)]
  case isFalse hhigh =>
    have hlt : i - 5 < 5 := by omega
    rw [rotl_getLsbD_eq _ n hlt, left_getLsbD p (rotlSource_lt hlt)]

theorem halvesSource_lt {n i : Nat} (hi : i < 10) : halvesSource n i < 10 := by
  unfold halvesSource
  split
  case isTrue hlow => exact (rotlSource_lt hlow).trans (by norm_num)
  case isFalse hhigh => exact Nat.add_lt_add_left (rotlSource_lt (by omega)) 5

/-- The key bit in place `k` of the subkey formed from the halves rotated by `n`: back through P8, the rotation and
P10. -/
def subkeySource (T : SdesTables) (n k : Nat) : Nat :=
  10 - T.p10.entries.getD (9 - halvesSource n (10 - T.p8.entries.getD (7 - k) 0)) 0

/-- Every subkey bit is one bit of the key, whatever the tables (42_key_schedule.md R65 to R67). -/
theorem subkeyOf_getLsbD (T : SdesTables) (key : Key) (n : Nat) {k : Nat} (hk : k < 8) :
    (subkeyOf T (rotateHalves (keyHalves T key) n)).getLsbD k = key.getLsbD (subkeySource T n k) := by
  have hp8 := permute_index_lt T.p8 k hk
  calc (subkeyOf T (rotateHalves (keyHalves T key) n)).getLsbD k
      = (join (rotl (left 5 (permP10 T key)) n) (rotl (right 5 (permP10 T key)) n)).getLsbD
          (10 - T.p8.entries.getD (7 - k) 0) := permute_getLsbD _ T.p8 k hk
    _ = (permP10 T key).getLsbD (halvesSource n (10 - T.p8.entries.getD (7 - k) 0)) :=
        rotatedHalves_getLsbD _ n hp8
    _ = key.getLsbD (subkeySource T n k) := permute_getLsbD key T.p10 _ (halvesSource_lt hp8)

/-- A list of the eight key bits, in the order of the places from the left, is a bit form of the subkey. -/
theorem subkeyOf_eq_pickBits {T : SdesTables} {n : Nat} {l : List Nat}
    (hl : ∀ k < 8, subkeySource T n k = l.getD (7 - k) 0) (key : Key) :
    subkeyOf T (rotateHalves (keyHalves T key) n) = pickBits 8 key l := by
  refine BitVec.eq_of_getLsbD_eq fun k hk => ?_
  rw [subkeyOf_getLsbD T key n hk, pickBits_getLsbD key l k hk, hl k hk]

/-! ### The bit forms under the configured tables -/

/-- The key bits of K1, leftmost first (42_key_schedule.md R70). -/
def k1KeyBits : List Nat := [9, 3, 1, 6, 2, 7, 0, 4]

/-- The key bits of K2, leftmost first (R70). -/
def k2KeyBits : List Nat := [2, 7, 4, 5, 0, 8, 1, 9]

theorem keySched_k1 (k : Key) : (keySched sdesTables k).1 = pickBits 8 k k1KeyBits :=
  (congrArg Prod.fst (keySched_eq sdesTables k)).trans (subkeyOf_eq_pickBits (by decide) k)

theorem keySched_k2 (k : Key) : (keySched sdesTables k).2 = pickBits 8 k k2KeyBits :=
  (congrArg Prod.snd (keySched_eq sdesTables k)).trans (subkeyOf_eq_pickBits (by decide) k)

/-- K1 holds exactly the key bits of its bit form. -/
theorem keySched_k1_eq_iff {k m : Key} :
    (keySched sdesTables k).1 = (keySched sdesTables m).1 ↔ ∀ i ∈ k1KeyBits, k.getLsbD i = m.getLsbD i := by
  rw [keySched_k1, keySched_k1, pickBits_eq_iff (by rfl)]

/-- K2 holds exactly the key bits of its bit form. -/
theorem keySched_k2_eq_iff {k m : Key} :
    (keySched sdesTables k).2 = (keySched sdesTables m).2 ↔ ∀ i ∈ k2KeyBits, k.getLsbD i = m.getLsbD i := by
  rw [keySched_k2, keySched_k2, pickBits_eq_iff (by rfl)]

/-- No key bit is lost to both subkeys. -/
theorem mem_k1KeyBits_or_mem_k2KeyBits : ∀ i < 10, i ∈ k1KeyBits ∨ i ∈ k2KeyBits := by decide

/-! ### The statements -/

/-- Settles O15: the second rotation is by 2 on top of 1, and rotations add up. -/
theorem secondShiftIsCumulative : Obligations.SecondShiftIsCumulative := fun T key =>
  ⟨rotateHalves_rotateHalves (keyHalves T key) 1 2, rfl, congrArg Prod.snd (keySched_eq T key)⟩

/-- Settles O16: the bit forms of the two subkeys, and the bits they leave out. -/
theorem subkeyBitsAreKeyBits : Obligations.SubkeyBitsAreKeyBits := by
  refine ⟨fun k => ⟨keySched_k1 k, keySched_k2 k⟩, fun k m h => keySched_k1_eq_iff.mpr fun i hi => ?k1,
    fun k m h => keySched_k2_eq_iff.mpr fun i hi => ?k2⟩
  case k1 => exact h i (ne_of_mem_of_not_mem hi (by decide)) (ne_of_mem_of_not_mem hi (by decide))
  case k2 => exact h i (ne_of_mem_of_not_mem hi (by decide)) (ne_of_mem_of_not_mem hi (by decide))

/-- Settles O17: equal subkeys agree on every key bit either of them holds, and those are all ten. -/
theorem differentKeysGiveDifferentSubkeys : Obligations.DifferentKeysGiveDifferentSubkeys := by
  intro k m h
  have hk1 := keySched_k1_eq_iff.mp (congrArg Prod.fst h)
  have hk2 := keySched_k2_eq_iff.mp (congrArg Prod.snd h)
  exact BitVec.eq_of_getLsbD_eq fun i hi => (mem_k1KeyBits_or_mem_k2KeyBits i hi).elim (hk1 i) (hk2 i)

end Sys2Proof.Machine

/-! PROOFS. The round function and the half swap (43_round_function.md): what each writes to the two halves of a block. -/

namespace Sys2Proof.Machine

/-! ### The halves of a block -/

/-- A block is determined by its two halves (40_permutation_unit.md R58). -/
theorem block_eq_iff {x y : Block} : x = y ↔ left 4 x = left 4 y ∧ right 4 x = right 4 y := by
  constructor
  · rintro rfl
    exact ⟨rfl, rfl⟩
  · rintro ⟨hleft, hright⟩
    calc x = join (left 4 x) (right 4 x) := (join_left_right (h := 4) x).symm
      _ = join (left 4 y) (right 4 y) := by rw [hleft, hright]
      _ = y := join_left_right (h := 4) y

/-! ### The round function -/

section RoundFunction

variable (T : SdesTables) (b : Block) (K : Subkey)

@[simp] theorem left_fk : left 4 (fk T b K) = left 4 b ^^^ feistelF T (right 4 b) K := left_join _ _

@[simp] theorem right_fk : right 4 (fk T b K) = right 4 b := right_join _ _

/-- The right half, and with it the mask XORed onto the left half, is the same in both rounds, so the second round
cancels the first (43_round_function.md R72). -/
@[simp] theorem fk_fk : fk T (fk T b K) K = b := by
  refine block_eq_iff.mpr ⟨?left, ?right⟩
  case left => rw [left_fk, left_fk, right_fk, BitVec.xor_assoc, BitVec.xor_self, BitVec.xor_zero]
  case right => rw [right_fk, right_fk]

end RoundFunction

/-! ### The half swap -/

section HalfSwap

variable (x : Block)

@[simp] theorem left_swapHalves : left 4 (swapHalves x) = right 4 x := left_join _ _

@[simp] theorem right_swapHalves : right 4 (swapHalves x) = left 4 x := right_join _ _

@[simp] theorem swapHalves_swapHalves : swapHalves (swapHalves x) = x := by
  refine block_eq_iff.mpr ⟨?left, ?right⟩
  case left => rw [left_swapHalves, right_swapHalves]
  case right => rw [right_swapHalves, left_swapHalves]

/-- The fixed points of SW are the blocks with equal halves (43_round_function.md R73). -/
theorem swapHalves_eq_self_iff : swapHalves x = x ↔ left 4 x = right 4 x := by
  rw [block_eq_iff, left_swapHalves, right_swapHalves, eq_comm, and_self_iff]

end HalfSwap

/-! ### The statements -/

/-- Settles O18: the round function's right half passes through, so its mask cancels in the second round. -/
theorem roundFunctionIsAnInvolution : Obligations.RoundFunctionIsAnInvolution := fun T b K =>
  ⟨fk_fk T b K, right_fk T b K, left_fk T b K⟩

/-- Settles O19: the laws of `swapHalves`; the count of its fixed points runs through the 256 blocks. -/
theorem halfSwapExchangesHalves : Obligations.HalfSwapExchangesHalves := by
  refine ⟨fun x => ⟨rfl, swapHalves_swapHalves x, swapHalves_eq_self_iff x⟩, ?count, rfl⟩
  case count => decide

end Sys2Proof.Machine

/-! PROOFS. The cipher commands (44_cipher_commands.md): the round trip of the two ciphers, the effect of each turn of
the core and of the command port, a held command, and runs of commands. -/

namespace Sys2Proof.Machine

/-! ### The round trip -/

section RoundTrip

variable (T : SdesTables) (b : Block)

@[simp] theorem permIPI_permIP : permIPI T (permIP T b) = b :=
  permute_permute_of_undoes T.ipi T.ip T.ipUndoesIpi b

@[simp] theorem permIP_permIPI : permIP T (permIPI T b) = b :=
  permute_permute_of_undoes T.ip T.ipi T.ipiUndoesIp b

/-- The two rounds with the subkeys in the opposite order undo each other from the outside in: IP cancels IPI, then
each round function and SW cancel themselves (44_cipher_commands.md R82). -/
theorem twoRounds_twoRounds (K L : Subkey) : twoRounds T (twoRounds T b K L) L K = b := by
  rw [twoRounds, twoRounds, permIP_permIPI, fk_fk, swapHalves_swapHalves, fk_fk, permIPI_permIP]

@[simp] theorem decrypt_encrypt (key : Key) : decrypt T (encrypt T b key) key = b := twoRounds_twoRounds T b _ _

@[simp] theorem encrypt_decrypt (key : Key) : encrypt T (decrypt T b key) key = b := twoRounds_twoRounds T b _ _

theorem decrypt_of_encrypt {p c : Block} {key : Key} (h : encrypt T p key = c) : decrypt T c key = p := by
  rw [← h, decrypt_encrypt]

end RoundTrip

/-! ### The effect of Complete -/

/-- `Complete` of a word that selects a command is that command (44_cipher_commands.md R75). -/
theorem completeWord_of_decode {w : CmdWord} {i : Instr} (h : decode w = .ok i) (s : State) :
    completeWord w s = exec i s := by
  rw [completeWord, h]

theorem completeWord_illegal {w : CmdWord} (h : opField w = 0b11#2) (s : State) :
    completeWord w s = .next (raiseIllegalCommand s) := by
  rw [completeWord, decode_illegal w h]

@[simp] theorem responseTo_encode_dec (d : Block) (k : Key) :
    responseTo (encode (.dec d k)) = ⟨true, false, some (decrypt sdesTables d k), none, none⟩ := by
  simp [responseTo, encode]

/-- From a cleared response a command's response is that of its word, and nothing else. -/
theorem exec_answers (i : Instr) (s : State) (h : ResponseCleared s) :
    ∃ t, exec i s = .next t ∧ responseOf t = responseTo (encode i) := by
  obtain ⟨t, hnext, hcore, -, -⟩ := completeWord_answers (encode i) s h
  exact ⟨t, (completeWord_of_decode (decode_encode i) s).symm.trans hnext, congrArg CoreElements.response hcore⟩

/-- `Complete` does not touch the command port (R75). -/
theorem completeWord_offer {w : CmdWord} {s t : State} (h : completeWord w s = .next t) : t.offer = s.offer := by
  obtain ⟨-, hw⟩ | ⟨-, hw⟩ | ⟨-, hw⟩ | ⟨-, hw⟩ := completeWord_cases w s
  all_goals cases hw.symm.trans h; rfl

theorem completeTurn_offer {s t : State} (h : completeTurn s = .next t) : t.offer = s.offer := by
  cases hb : s.busy with
  | false => cases (completeTurn_idle s hb).symm.trans h; rfl
  | true =>
    cases hp : s.pend with
    | none => cases (completeTurn_noWord s hb hp).symm.trans h
    | some w => exact completeWord_offer ((completeTurn_inFlight s w hb hp).symm.trans h)

theorem step_complete_offer {s t : State} {rest : List Turn} (hs : s.turns = .complete :: rest)
    (h : step s = .next t) : t.offer = s.offer :=
  completeTurn_offer (s := setTurns rest s) ((step_planned s _ rest hs).symm.trans h)

/-! ### One planned turn -/

section PlannedTurn

variable (s : State) (rest : List Turn)

/-- The core's turn where BUSY is 0 passes (notes/assumptions/3.md). -/
theorem step_complete_idle (hs : s.turns = .complete :: rest) (hb : s.busy = false) :
    step s = .next (setTurns rest s) :=
  (step_planned s _ rest hs).trans (completeTurn_idle (setTurns rest s) hb)

/-- An accepting edge while BUSY is 1 passes (notes/assumptions/3.md). -/
theorem step_accept_busy (hs : s.turns = .accept :: rest) (hb : s.busy = true) :
    step s = .next (setTurns rest s) :=
  (step_planned s _ rest hs).trans (congrArg Host.Outcome.next (acceptHeld_busy (setTurns rest s) hb))

theorem step_withdraw (hs : s.turns = .withdraw :: rest) : step s = .next (setOffer none (setTurns rest s)) :=
  step_planned s _ rest hs

end PlannedTurn

theorem decode_tableWord {nbits w : Nat} {i : Instr} (h : decodeTableWord nbits w = some i) :
    decode (tableWord nbits w) = .ok i := by
  unfold decodeTableWord at h
  split at h
  case h_1 hd => cases h; exact hd
  case h_2 => cases h

/-! ### A held command -/

/-- With nothing planned, an idle core out of reset takes the word held on the port (44_cipher_commands.md R76). -/
theorem step_takesHeld {s : State} {w : CmdWord} (hs : s.turns = []) (ho : s.offer = some w) (hb : s.busy = false)
    (hr : s.rst = false) : step s = .next (issue w s) := by
  rw [step_unplannedIdle s hs hb, acceptHeld, ho]
  exact congrArg Host.Outcome.next (if_pos ((cmdReady_iff s).mpr ⟨hb, hr⟩))

/-- The word is on the port still, or it is the command in flight. -/
def OfferedOrInFlight (w : CmdWord) (s : State) : Prop := s.offer = some w ∨ (s.busy = true ∧ s.pend = some w)

theorem issue_inFlight (w : CmdWord) (s : State) : OfferedOrInFlight w (issue w s) := .inr ⟨rfl, rfl⟩

theorem offerWord_offeredOrInFlight (w : CmdWord) (s : State) : OfferedOrInFlight w (offerWord w s) := by
  obtain ⟨-, -, h⟩ | ⟨-, h⟩ := offerWord_cases w s
  · rw [h]; exact issue_inFlight w s
  · rw [h]; exact .inl rfl

section KeptOffer

variable {w : CmdWord} {s t : State} (ho : s.offer = some w)
include ho

theorem acceptHeld_offeredOrInFlight : OfferedOrInFlight w (acceptHeld s) := by
  obtain ⟨v, hv, -, -, h⟩ | ⟨-, h⟩ := acceptHeld_cases s
  · cases ho.symm.trans hv
    rw [h]; exact issue_inFlight w s
  · rw [h]; exact .inl ho

theorem submitRequest_offeredOrInFlight {r : StringRequest} (hr : requestFailures r = [] → requestWord r = w) :
    OfferedOrInFlight w (submitRequest r s) := by
  obtain ⟨hpass, h⟩ | ⟨-, h⟩ := submitRequest_cases r s
  · rw [h, hr hpass]; exact offerWord_offeredOrInFlight w s
  · rw [h]; exact .inl ho

theorem useTurn_offeredOrInFlight {f : RspField} (h : useTurn f s = .next t) : OfferedOrInFlight w t := by
  obtain ⟨v, -, hu⟩ | ⟨-, hu⟩ := useTurn_cases f s
  · cases hu.symm.trans h; exact .inl ho
  · cases hu.symm.trans h

theorem completeTurn_offeredOrInFlight (h : completeTurn s = .next t) : OfferedOrInFlight w t :=
  .inl ((completeTurn_offer h).trans ho)

/-- A turn that keeps the offer loses no held word (70_reset_and_hazards.md R100). -/
theorem takeTurn_offeredOrInFlight {u : Turn} (hk : u.keepsOffer w) (h : takeTurn u s = .next t) :
    OfferedOrInFlight w t := by
  cases u with
  | offer v => cases hk; cases h; exact offerWord_offeredOrInFlight w s
  | accept => cases h; exact acceptHeld_offeredOrInFlight ho
  | withdraw => cases hk
  | submit r => cases h; exact submitRequest_offeredOrInFlight ho hk
  | read => cases h; exact .inl ho
  | useField f => exact useTurn_offeredOrInFlight ho h
  | reset held => cases h; exact .inl ho
  | releaseRst => cases h; exact .inl ho
  | complete => exact completeTurn_offeredOrInFlight ho h

theorem unplannedTurn_offeredOrInFlight (h : unplannedTurn s = .next t) : OfferedOrInFlight w t := by
  cases hb : s.busy with
  | true => exact completeTurn_offeredOrInFlight ho ((unplannedTurn_busy s hb).symm.trans h)
  | false => cases (unplannedTurn_idle s hb).symm.trans h; exact acceptHeld_offeredOrInFlight ho

end KeptOffer

/-! ### Runs of commands -/

/-- A word issued, completed and read by an idle core: the core is idle again with the word's response, which the host
has read, and nothing is left on the port (44_cipher_commands.md R74, R75, 10_state.md R24). -/
theorem run_offer_complete_read (s : State) (w : CmdWord) (rest : List Turn) (hb : s.busy = false)
    (hr : s.rst = false) (hs : s.turns = .offer w :: .complete :: .read :: rest) :
    ∃ t : State, (∀ k, core.run (k + 3) s = core.run k t) ∧ coreOf t = ⟨false, none, responseTo w⟩ ∧
      t.rst = false ∧ t.turns = rest ∧ t.offer = none ∧ t.hostSample = some (sample t) := by
  have hissue := step_issue s w (.complete :: .read :: rest) hs hb hr
  obtain ⟨t, hcomplete, hcore, hrst, hturns⟩ := step_complete_answers
    (issue w (setTurns (.complete :: .read :: rest) s)) w (.read :: rest) rfl rfl rfl (issue_responseCleared _ _)
  have hread := step_read t rest hturns
  refine ⟨readTurn (setTurns rest t), fun k => ?_, hcore, hrst.trans hr, rfl, step_complete_offer rfl hcomplete, rfl⟩
  rw [run_succ_next (k + 2) s _ hissue, run_succ_next (k + 1) _ t hcomplete, run_succ_next k t _ hread]

/-! ### The statements -/

/-- Settles O20: in both directions the second cipher runs the two rounds of the first with the subkeys swapped. -/
theorem decryptUndoesEncrypt : Obligations.DecryptUndoesEncrypt := fun T b key =>
  ⟨decrypt_encrypt T b key, encrypt_decrypt T b key⟩

/-- Settles O28: a step is `Complete` of the word in flight, and each op value gives it one effect. -/
theorem completeWritesByOpField : Obligations.CompleteWritesByOpField := by
  refine fun s w rest hs => ⟨fun hb hp => ?inFlight, fun hb => ⟨_, step_complete_idle s rest hs hb, rfl⟩⟩
  case inFlight =>
    have hstep := step_complete s w rest hs hb hp
    exact ⟨fun hop => hstep.trans (completeWord_of_decode (decode_enc w hop) _),
      fun hop => hstep.trans (completeWord_of_decode (decode_dec w hop) _),
      fun hop => hstep.trans (completeWord_of_decode (decode_keygen w hop) _),
      fun hop => hstep.trans (completeWord_illegal hop _)⟩

/-- Settles O32: the offer is held, the unplanned step completes the word in flight, and the next takes the held one. -/
theorem heldCommandIsTakenAfterComplete : Obligations.HeldCommandIsTakenAfterComplete := by
  intro s v w hinv hb hp hs
  have hhold := step_hold s w [] hs hb
  obtain ⟨b, hnext, hcore, hrst, hturns⟩ :=
    completeWord_answers v (setOffer (some w) (setTurns [] s)) (hinv.responseCleared_of_busy hb)
  have hcomplete := (step_unplannedComplete (setOffer (some w) (setTurns [] s)) v rfl hb hp).trans hnext
  have hbusy : b.busy = false := congrArg CoreElements.busy hcore
  have hoffer : b.offer = some w := completeWord_offer hnext
  have htake := step_takesHeld hturns hoffer hbusy (hrst.trans (hinv.rst_of_busy hb))
  exact ⟨_, b, _, hhold, rfl, rfl, hcomplete, hbusy, congrArg CoreElements.response hcore, hoffer, htake, rfl, rfl, rfl⟩

/-- Settles O33: a step takes the planned turn, which keeps the offer, or the core's own. -/
theorem keptOfferIsNotLost : Obligations.KeptOfferIsNotLost := by
  intro s t w ho hkeeps hstep
  cases hs : s.turns with
  | nil => exact unplannedTurn_offeredOrInFlight ho ((step_unplanned s hs).symm.trans hstep)
  | cons u rest =>
    exact takeTurn_offeredOrInFlight (s := setTurns rest s) ho (hkeeps u rest hs)
      ((step_planned s u rest hs).symm.trans hstep)

/-- Settles O41: a command in flight shows no response, so its completion gives the word's own. -/
theorem responseDependsOnlyOnTheWord : Obligations.ResponseDependsOnlyOnTheWord := by
  intro s t w r1 r2 hs ht hsb htb hsp htp hst htt
  obtain ⟨s', hs', hscore, -, -⟩ := step_complete_answers s w r1 hst hsb hsp (hs.responseCleared_of_busy hsb)
  obtain ⟨t', ht', htcore, -, -⟩ := step_complete_answers t w r2 htt htb htp (ht.responseCleared_of_busy htb)
  exact ⟨s', t', hs', ht', congrArg CoreElements.response hscore, congrArg CoreElements.response htcore⟩

/-- Settles O45: each command gives the response of its own word, and DECRYPT undoes ENCRYPT. -/
theorem decOfTheCiphertextRestoresTheBlock : Obligations.DecOfTheCiphertextRestoresTheBlock := by
  rintro s p _ k rest _ hb hr rfl hs
  obtain ⟨t, htrun, htcore, htrst, htturns⟩ := run_offer_complete s _ _ hb hr hs
  obtain ⟨u, hurun, hucore, -, -⟩ := run_offer_complete t _ _ (congrArg CoreElements.busy htcore) htrst htturns
  have htresp := (congrArg CoreElements.response htcore).trans (responseTo_encode_enc p k)
  have huresp := (congrArg CoreElements.response hucore).trans (responseTo_encode_dec _ k)
  rw [decrypt_encrypt] at huresp
  exact ⟨t, u, (htrun 0).trans (hostRun_zero core t), congrArg Response.data htresp,
    (htrun 2).trans ((hurun 0).trans (hostRun_zero core u)), congrArg Response.data huresp,
    congrArg Response.err huresp, congrArg Response.valid huresp⟩

/-- Settles O50, by induction on the words before the last: each leaves an idle core and the turns of the others. -/
theorem runOfCommandsEndsWithTheLastResponse : Obligations.RunOfCommandsEndsWithTheLastResponse := by
  intro s ws w hb hr hs
  induction ws generalizing s with
  | nil =>
    obtain ⟨t, hrun, hcore, -, hturns, hoffer, hsample⟩ := run_offer_complete_read s w [] hb hr hs
    exact ⟨t, (hrun 0).trans (hostRun_zero core t), ⟨hturns, congrArg CoreElements.busy hcore, hoffer, hsample⟩,
      congrArg CoreElements.response hcore⟩
  | cons v ws ih =>
    obtain ⟨t, hrun, hcore, hrst, hturns, -, -⟩ :=
      run_offer_complete_read s v (turnsOfWords (ws ++ [w])) hb hr hs
    obtain ⟨u, hu, hended, hresp⟩ := ih t (congrArg CoreElements.busy hcore) hrst hturns
    exact ⟨u, (hrun _).trans hu, hended, hresp⟩

/-- Settles O21: the six steps are `twoRounds` with the subkeys in the order each cipher uses them. -/
theorem cipherRunsTheSixSteps : Obligations.CipherRunsTheSixSteps := by
  intro T b key K1 K2 hkeys
  rw [encrypt, decrypt, hkeys]
  exact ⟨rfl, rfl⟩

/-- Settles O24: ENC's word decodes to it, and its effect is one record update. -/
theorem encCompletesWithTheCiphertext : Obligations.EncCompletesWithTheCiphertext := by
  refine ⟨fun d k s => ⟨decode_encode (.enc d k), rfl, fun hclear => ?answers⟩, by decide⟩
  case answers => simpa using exec_answers (.enc d k) s hclear

/-- Settles O25: DEC's word decodes to it, and its effect is one record update; its corner value and its example undo
those of ENC. -/
theorem decCompletesWithThePlaintext : Obligations.DecCompletesWithThePlaintext := by
  refine ⟨fun d k s => ⟨decode_encode (.dec d k), rfl, fun hclear => ?answers, decrypt_encrypt sdesTables d k⟩,
    decrypt_of_encrypt sdesTables (by decide), decrypt_of_encrypt sdesTables (by decide)⟩
  case answers => simpa using exec_answers (.dec d k) s hclear

/-- Settles O26: every word with KEYGEN's op decodes to the KEYGEN of its key field, whatever its data field. -/
theorem keygenCompletesWithTheSubkeys : Obligations.KeygenCompletesWithTheSubkeys := by
  refine ⟨fun k s => ⟨fun d => ?decodes, rfl, fun hclear => ?answers⟩, by decide⟩
  case decodes =>
    calc decode (packWord 0b10#2 k d) = .ok (.keygen (keyField (packWord 0b10#2 k d))) :=
          decode_keygen _ (opField_packWord _ k d)
      _ = .ok (.keygen k) := by rw [keyField_packWord]
  case answers => simpa using exec_answers (.keygen k) s hclear

/-- Settles O29: planned or not, the core's step is `Complete` of the word in flight, and so its command. -/
theorem stepRunsTheCommandInFlight : Obligations.StepRunsTheCommandInFlight := fun s w _ hb hp hd =>
  ⟨fun rest hs => (step_complete s w rest hs hb hp).trans (completeWord_of_decode hd _),
    fun hs => (step_unplannedComplete s w hs hb hp).trans (completeWord_of_decode hd s)⟩

/-- Settles O30: the placed word is in flight with the core's turn next. -/
theorem placedWordIsRunNext : Obligations.PlacedWordIsRunNext := fun s nbits w _ hd =>
  (step_complete (placeCommand (tableWord nbits w) s) _ s.turns rfl rfl rfl).trans
    (completeWord_of_decode (decode_tableWord hd) _)

/-- Settles O31: one rule of the command port for each turn and each level of BUSY. -/
theorem issueCapturesTheWord : Obligations.IssueCapturesTheWord := by
  refine fun s w rest => ⟨?issue, step_hold s w rest, step_accept_busy s rest, step_withdraw s rest⟩
  case issue =>
    rintro (hs | ⟨hs, ho⟩) hb hr
    · exact step_issue s w rest hs hb hr
    · exact step_accept s w rest hs ho hb hr

end Sys2Proof.Machine

/-! PROOFS. Exceptions (60_exceptions.md): the outcomes of a step, IllegalCommand, and the host-side string adapter. -/

namespace Sys2Proof.Machine

/-! ### The outcomes of a step -/

/-- The core's turn always has a next state: while BUSY is 1 there is a word to complete (10_state.md R20). -/
theorem Inv.completeTurn_next {s : State} (h : Inv s) : ∃ t, completeTurn s = .next t := by
  cases hb : s.busy with
  | false => exact ⟨s, completeTurn_idle s hb⟩
  | true =>
    obtain ⟨w, hp⟩ := Option.isSome_iff_exists.mp (h.pendWhileBusy.trans hb)
    obtain ⟨t, ht, -⟩ := completeWord_answers w s (h.responseCleared_of_busy hb)
    exact ⟨t, (completeTurn_inFlight s w hb hp).trans ht⟩

theorem Inv.unplannedTurn_next {s : State} (h : Inv s) : ∃ t, unplannedTurn s = .next t := by
  cases hb : s.busy with
  | false => exact ⟨acceptHeld s, unplannedTurn_idle s hb⟩
  | true =>
    obtain ⟨t, ht⟩ := h.completeTurn_next
    exact ⟨t, (unplannedTurn_busy s hb).trans ht⟩

/-- A planned turn has a next state, or it uses a field that holds NONE (10_state.md R24). -/
theorem Inv.takeTurn_next_or_readOfNone {s : State} (h : Inv s) (u : Turn) :
    (∃ t, takeTurn u s = .next t) ∨
    ∃ g, u = .useField g ∧ readField g s = none ∧ takeTurn u s = .fault (.readOfNone (.rsp g)) := by
  cases u with
  | useField g =>
    obtain ⟨v, -, hu⟩ | ⟨hnone, hu⟩ := useTurn_cases g s
    · exact .inl ⟨_, hu⟩
    · exact .inr ⟨g, rfl, hnone, hu⟩
  | complete => exact .inl h.completeTurn_next
  | offer w => exact .inl ⟨_, rfl⟩
  | accept => exact .inl ⟨_, rfl⟩
  | withdraw => exact .inl ⟨_, rfl⟩
  | submit r => exact .inl ⟨_, rfl⟩
  | read => exact .inl ⟨_, rfl⟩
  | reset held => exact .inl ⟨_, rfl⟩
  | releaseRst => exact .inl ⟨_, rfl⟩

/-- A step has a next state, or it is the host's use of a field that holds NONE (60_exceptions.md R86). -/
theorem Inv.step_next_or_readOfNone {s : State} (h : Inv s) :
    (∃ t, step s = .next t) ∨
    ∃ g rest, s.turns = .useField g :: rest ∧ readField g s = none ∧ step s = .fault (.readOfNone (.rsp g)) := by
  cases hs : s.turns with
  | nil =>
    obtain ⟨t, ht⟩ := h.unplannedTurn_next
    exact .inl ⟨t, (step_unplanned s hs).trans ht⟩
  | cons u rest =>
    have hinv : Inv (setTurns rest s) := h.of_coreOf_eq rfl id
    obtain ⟨t, ht⟩ | ⟨g, rfl, hnone, hfault⟩ := hinv.takeTurn_next_or_readOfNone u
    · exact .inl ⟨t, (step_planned s u rest hs).trans ht⟩
    · exact .inr ⟨g, rest, rfl, (readField_setTurns g rest s).symm.trans hnone,
        (step_planned s _ rest hs).trans hfault⟩

/-- Using a field that holds NONE faults in every state (10_state.md R24). -/
theorem step_useField_none {s : State} {g : RspField} {rest : List Turn} (hs : s.turns = .useField g :: rest)
    (hnone : readField g s = none) : step s = .fault (.readOfNone (.rsp g)) :=
  (step_useField s g rest hs).trans (useTurn_none ((readField_setTurns g rest s).trans hnone))

/-! ### IllegalCommand -/

/-- `Complete` of a word that selects a command leaves RSP_ERR as it was (60_exceptions.md R85). -/
theorem completeWord_keeps_rspErr {w : CmdWord} (hop : opField w ≠ 0b11#2) (s : State) :
    ∃ t, completeWord w s = .next t ∧ t.rspErr = s.rspErr := by
  obtain ⟨-, h⟩ | ⟨-, h⟩ | ⟨-, h⟩ | ⟨hillegal, -⟩ := completeWord_cases w s
  · exact ⟨_, h, rfl⟩
  · exact ⟨_, h, rfl⟩
  · exact ⟨_, h, rfl⟩
  · exact absurd hillegal hop

theorem causeCode_eq_zero_iff (s : State) : causeCode s = 0 ↔ s.rspErr = false := by
  simp [causeCode]

/-- IllegalCommand from a cleared response shows the error alone (60_exceptions.md R85, 10_state.md R23). -/
theorem responseOf_raiseIllegalCommand {s : State} (h : ResponseCleared s) :
    responseOf (raiseIllegalCommand s) = ⟨true, true, none, none, none⟩ := by
  obtain ⟨-, -, hdata, hk1, hk2⟩ := h
  simp [responseOf, hdata, hk1, hk2]

/-! ### The checks of the adapter -/

theorem isBinaryChar_iff (c : Char) : isBinaryChar c = true ↔ c = '0' ∨ c = '1' := by
  simp [isBinaryChar]

/-- A string fails the length check, the character check, both or neither (60_exceptions.md R87). -/
theorem mem_failedChecks {arg : StringArg} {n : Nat} {cs : List Char} {f : HostRefusal} :
    f ∈ failedChecks arg n cs ↔
      (f = .invalidLength arg ∧ cs.length ≠ n) ∨ (f = .invalidCharacter arg ∧ ∃ c ∈ cs, c ≠ '0' ∧ c ≠ '1') := by
  have hchars : cs.all isBinaryChar = false ↔ ∃ c ∈ cs, c ≠ '0' ∧ c ≠ '1' := by
    simp [isBinaryChar_iff]
  rw [← hchars, failedChecks, List.mem_append]
  by_cases hlen : cs.length = n <;> cases cs.all isBinaryChar <;> simp [hlen]

theorem failedChecks_eq_nil_iff {arg : StringArg} {n : Nat} {cs : List Char} :
    failedChecks arg n cs = [] ↔ cs.length = n ∧ ∀ c ∈ cs, c = '0' ∨ c = '1' := by
  simp [failedChecks, isBinaryChar_iff, or_iff_not_imp_left]

/-- Character `i` of a string drives string position `i`, bit `n - i` (60_exceptions.md R87, 00_scope.md R10). -/
theorem bitsOfChars_getLsbD {n i : Nat} (cs : List Char) (hi : 1 ≤ i) (hn : i ≤ n) :
    (bitsOfChars n cs).getLsbD (n - i) = (cs.getD (i - 1) '0' == '1') := by
  have hlt : n - i < n := by omega
  have hback : n - 1 - (n - i) = i - 1 := by omega
  rw [BitVec.getLsbD_eq_getElem hlt, bitsOfChars, ofBits_getElem, hback]

/-! ### A request -/

section Request

variable {s : State} {r : StringRequest} {rest : List Turn} (hs : s.turns = .submit r :: rest)
include hs

/-- A request that passes every check is the offer of its word (60_exceptions.md R87, notes/assumptions/8.md). -/
theorem step_submit_valid (hr : requestFailures r = []) :
    step s = .next (offerWord (requestWord r) (setTurns rest s)) := by
  obtain ⟨-, h⟩ | ⟨hne, -⟩ := submitRequest_cases r (setTurns rest s)
  · exact (step_planned s _ rest hs).trans (congrArg Host.Outcome.next h)
  · exact absurd hr hne

theorem step_submit_eq_step_offer (hr : requestFailures r = []) :
    step s = step (setTurns (.offer (requestWord r) :: rest) s) :=
  (step_submit_valid hs hr).trans (step_offer (setTurns (.offer (requestWord r) :: rest) s) _ rest rfl).symm

/-- A malformed request is refused (60_exceptions.md R87). -/
theorem step_submit_malformed (hr : requestFailures r ≠ []) :
    step s = .next (refuseRequest (requestFailures r) (setTurns rest s)) := by
  obtain ⟨hnil, -⟩ | ⟨-, h⟩ := submitRequest_cases r (setTurns rest s)
  · exact absurd hnil hr
  · exact (step_planned s _ rest hs).trans (congrArg Host.Outcome.next h)

/-- A valid request to a ready core issues its word (44_cipher_commands.md R74). -/
theorem step_submit_issues (hr : requestFailures r = []) (hb : s.busy = false) (hrst : s.rst = false) :
    step s = .next (issue (requestWord r) (setTurns rest s)) := by
  rw [step_submit_valid hs hr, offerWord, if_pos ((cmdReady_iff (setTurns rest s)).mpr ⟨hb, hrst⟩)]

end Request

/-! ### The statements -/

/-- Settles O40: under the invariant a step has a next state or is the use of a field that holds NONE. -/
theorem onlyUsingNoneStopsARun : Obligations.OnlyUsingNoneStopsARun := by
  intro s hinv
  refine ⟨fun r hrefused => ?notRefused, fun f => ⟨fun hfault => ?onlyThere, ?faultsThere⟩⟩
  case notRefused =>
    obtain ⟨t, ht⟩ | ⟨g, rest, -, -, hg⟩ := hinv.step_next_or_readOfNone
    · cases ht.symm.trans hrefused
    · cases hg.symm.trans hrefused
  case onlyThere =>
    obtain ⟨t, ht⟩ | ⟨g, rest, hs, hnone, hg⟩ := hinv.step_next_or_readOfNone
    · cases ht.symm.trans hfault
    · cases hg.symm.trans hfault
      exact ⟨g, rest, hs, hnone, rfl⟩
  case faultsThere =>
    rintro ⟨g, rest, hs, hnone, rfl⟩
    exact step_useField_none hs hnone

/-- Settles O46: a request passes where each of its strings fails no check, and is then the offer of its word. -/
theorem adapterIssuesValidStrings : Obligations.AdapterIssuesValidStrings := by
  refine ⟨fun block key => ?pair, fun key => failedChecks_eq_nil_iff, fun _ _ => rfl,
    fun n cs i _ hi hn => bitsOfChars_getLsbD cs hi hn, fun s r rest hs hr hb hrst => ?issues,
    fun s r rest hs hr => step_submit_eq_step_offer hs hr⟩
  case pair => rw [requestFailures, List.append_eq_nil_iff, failedChecks_eq_nil_iff, failedChecks_eq_nil_iff]
  case issues => exact ⟨_, requestWord r, step_submit_issues hs hr hb hrst, rfl, rfl, decode_encode (requestInstr r)⟩

/-- Settles O47: a malformed request changes the adapter's record alone, and a string's failed checks are its own. -/
theorem adapterRefusesMalformedStrings : Obligations.AdapterRefusesMalformedStrings := by
  refine ⟨fun s r rest hs hr => ?refuses, fun block key r hpair => ?pair, fun key f => mem_failedChecks⟩
  case refuses =>
    obtain ⟨reason, hmem, hreported⟩ :=
      reportedRefusal_mem (Config.adapterChoice s.adapterDraws) (requestFailures r) hr
    exact ⟨_, reason, step_submit_malformed hs hr, rfl, rfl, rfl, rfl, hreported, hmem⟩
  case pair =>
    have hfailures : requestFailures r = failedChecks .block 8 block ++ failedChecks .key 10 key := by
      obtain rfl | rfl := hpair <;> rfl
    simp [hfailures, mem_failedChecks]

/-- Settles O27: op 11 is the one value whose Complete takes IllegalCommand; the other three keep RSP_ERR. -/
theorem reservedOpRaisesIllegalCommand : Obligations.ReservedOpRaisesIllegalCommand :=
  ⟨fun s w rest hs hb hp hop => (step_complete s w rest hs hb hp).trans (completeWord_illegal hop _),
    fun s _ hclear hop => ⟨_, completeWord_illegal hop s, responseOf_raiseIllegalCommand hclear, rfl⟩,
    fun s _ hop => completeWord_keeps_rspErr hop s, causeCode_eq_zero_iff⟩

end Sys2Proof.Machine

/-! PROOFS. Reset and hazards (70_reset_and_hazards.md): what a step that is no Reset does to an idle core, a core with
`rst` held, the first Issue once `rst` is released, and a response's lifetime. -/

namespace Sys2Proof.Machine

/-! ### An idle core without a Reset -/

/-- The core's elements stay, or a ready core has captured a word (44_cipher_commands.md R74). -/
def KeepsOrIssues (s t : State) : Prop :=
  coreOf t = coreOf s ∨ ∃ w, s.busy = false ∧ s.rst = false ∧ coreOf t = coreOf (issue w s)

/-- While `rst` is held nothing is captured (70_reset_and_hazards.md R95). -/
theorem KeepsOrIssues.coreOf_eq_of_rst {s t : State} (h : KeepsOrIssues s t) (hr : s.rst = true) :
    coreOf t = coreOf s := by
  obtain hkeeps | ⟨w, -, hreleased, -⟩ := h
  · exact hkeeps
  · simp [hr] at hreleased

theorem offerWord_keepsOrIssues (w : CmdWord) (s : State) : KeepsOrIssues s (offerWord w s) := by
  obtain ⟨hb, hr, h⟩ | ⟨-, h⟩ := offerWord_cases w s
  · exact .inr ⟨w, hb, hr, congrArg coreOf h⟩
  · rw [h]; exact .inl rfl

theorem acceptHeld_keepsOrIssues (s : State) : KeepsOrIssues s (acceptHeld s) := by
  obtain ⟨w, -, hb, hr, h⟩ | ⟨-, h⟩ := acceptHeld_cases s
  · exact .inr ⟨w, hb, hr, congrArg coreOf h⟩
  · exact .inl (congrArg coreOf h)

theorem submitRequest_keepsOrIssues (r : StringRequest) (s : State) : KeepsOrIssues s (submitRequest r s) := by
  obtain ⟨-, h⟩ | ⟨-, h⟩ := submitRequest_cases r s
  · rw [h]; exact offerWord_keepsOrIssues _ s
  · rw [h]; exact .inl rfl

theorem useTurn_keepsOrIssues {f : RspField} {s t : State} (h : useTurn f s = .next t) : KeepsOrIssues s t := by
  obtain ⟨v, -, hu⟩ | ⟨-, hu⟩ := useTurn_cases f s
  · cases hu.symm.trans h; exact .inl rfl
  · cases hu.symm.trans h

/-- On an idle core every turn but a Reset keeps the core's elements or issues a command. -/
theorem takeTurn_keepsOrIssues {u : Turn} {s t : State} (hb : s.busy = false) (hu : ∀ held, u ≠ .reset held)
    (h : takeTurn u s = .next t) : KeepsOrIssues s t := by
  cases u with
  | offer w => cases h; exact offerWord_keepsOrIssues w s
  | accept => cases h; exact acceptHeld_keepsOrIssues s
  | withdraw => cases h; exact .inl rfl
  | submit r => cases h; exact submitRequest_keepsOrIssues r s
  | read => cases h; exact .inl rfl
  | useField f => exact useTurn_keepsOrIssues h
  | reset held => exact absurd rfl (hu held)
  | releaseRst => cases h; exact .inl rfl
  | complete => cases (completeTurn_idle s hb).symm.trans h; exact .inl rfl

/-- A step of an idle core keeps its elements or issues a command, or the turn is a Reset. -/
theorem step_keepsOrIssues_or_reset {s t : State} (hb : s.busy = false) (h : step s = .next t) :
    KeepsOrIssues s t ∨ ∃ held rest, s.turns = .reset held :: rest := by
  cases hs : s.turns with
  | nil => cases (step_unplannedIdle s hs hb).symm.trans h; exact .inl (acceptHeld_keepsOrIssues s)
  | cons u rest =>
    by_cases hu : ∃ held, u = .reset held
    · obtain ⟨held, rfl⟩ := hu
      exact .inr ⟨held, rest, rfl⟩
    · exact .inl (takeTurn_keepsOrIssues (s := setTurns rest s) hb (not_exists.mp hu)
        ((step_planned s u rest hs).symm.trans h))

/-! ### Reset, and the first Issue after it -/

theorem step_reset {s : State} {held : Bool} {rest : List Turn} (hs : s.turns = .reset held :: rest) :
    step s = .next (resetTurn held (setTurns rest s)) := step_planned s _ rest hs

theorem resetTurn_responseCleared (held : Bool) (s : State) : ResponseCleared (resetTurn held s) :=
  ⟨rfl, rfl, rfl, rfl, rfl⟩

/-- A ready core captures at once the word offered to it, or the word held on its port (44_cipher_commands.md R74,
R76). -/
theorem step_issues_of_ready {s : State} {w : CmdWord} {rest : List Turn} (hb : s.busy = false) (hr : s.rst = false)
    (h : s.turns = .offer w :: rest ∨ (s.offer = some w ∧ (s.turns = .accept :: rest ∨ s.turns = []))) :
    ∃ u, step s = .next u ∧ u.busy = true ∧ u.pend = some w := by
  obtain hs | ⟨ho, hs | hs⟩ := h
  · exact ⟨_, step_issue s w rest hs hb hr, rfl, rfl⟩
  · exact ⟨_, step_accept s w rest hs ho hb hr, rfl, rfl⟩
  · exact ⟨_, step_takesHeld hs ho hb hr, rfl, rfl⟩

/-! ### A response's lifetime -/

/-- A response stands only in an idle core (10_state.md R21). -/
theorem Inv.idle_of_rspValid {s : State} (h : Inv s) (hv : s.rspValid = true) : s.busy = false := by
  by_contra hb
  have hinvalid := h.noResponseInFlight (Bool.eq_true_of_not_eq_false hb)
  simp [hv] at hinvalid

/-- A step that puts a command in flight clears the response (20_memory.md R35). -/
theorem CoreMove.responseCleared_of_issue {s t : State} (hm : CoreMove s t) (hs : s.busy = false)
    (ht : t.busy = true) : ResponseCleared t := by
  cases hm with
  | keeps hcore _ => cases ht.symm.trans ((congrArg CoreElements.busy hcore).trans hs)
  | issues w _ _ => exact issue_responseCleared w s
  | completes hb _ _ => cases hb.symm.trans hs
  | resets held => exact resetTurn_responseCleared held s

/-! ### The statements -/

/-- Settles O43: a response stands in an idle core, whose step keeps it, issues a command or is a Reset. -/
theorem responseLastsUntilIssueOrReset : Obligations.ResponseLastsUntilIssueOrReset := by
  refine fun s t hinv hv hstep => ⟨?lasts, fun hs ht => ?issued, fun held rest hs => ?reset⟩
  case lasts =>
    have hb := hinv.idle_of_rspValid hv
    obtain (hkeeps | ⟨w, -, -, hissue⟩) | hreset := step_keepsOrIssues_or_reset hb hstep
    · exact .inl (congrArg CoreElements.response hkeeps)
    · exact .inr (.inl ⟨hb, congrArg CoreElements.busy hissue⟩)
    · exact .inr (.inr hreset)
  case issued =>
    obtain ⟨rest, hm⟩ := step_coreMove hstep
    exact hm.responseCleared_of_issue hs ht
  case reset =>
    cases (step_reset hs).symm.trans hstep
    exact resetTurn_responseCleared held _

/-- Settles O36: Reset is one record update; with `rst` held a turn of the host can capture no word; and a Reset or a
release of `rst` leaves a ready core with the port as it was. -/
theorem resetWorksInEveryState : Obligations.ResetWorksInEveryState := by
  refine ⟨fun s held rest hs => step_reset hs,
    fun s w p hr => ⟨?notReady, fun rest hs => ?offer, fun rest hs => ?accept, fun r rest hs => ?submit,
      fun hs hb => ?unplanned⟩,
    fun s t hinv hr hstep => ?held, fun s rest hs => step_releaseRst s rest hs,
    fun s w next rest hfirst hnext => ?issues⟩
  case notReady => simp [outPorts, cmdReady, hr]
  case offer => exact ⟨_, step_offer s w rest hs, (offerWord_keepsOrIssues w (setTurns rest s)).coreOf_eq_of_rst hr⟩
  case accept =>
    exact ⟨_, step_planned s _ rest hs, (acceptHeld_keepsOrIssues (setTurns rest s)).coreOf_eq_of_rst hr⟩
  case submit =>
    exact ⟨_, step_planned s _ rest hs, (submitRequest_keepsOrIssues r (setTurns rest s)).coreOf_eq_of_rst hr⟩
  case unplanned => exact ⟨_, step_unplannedIdle s hs hb, (acceptHeld_keepsOrIssues s).coreOf_eq_of_rst hr⟩
  case held =>
    obtain ⟨hb, -⟩ := hinv.idleInReset hr
    exact (step_keepsOrIssues_or_reset hb hstep).imp_left (·.coreOf_eq_of_rst hr)
  case issues =>
    obtain hs | ⟨hb, hs⟩ := hfirst
    · obtain ⟨u, hu⟩ := step_issues_of_ready (s := resetTurn false (setTurns next s)) rfl rfl hnext
      exact ⟨_, u, step_reset hs, rfl, hu⟩
    · obtain ⟨u, hu⟩ := step_issues_of_ready (s := setRst false (setTurns next s)) hb rfl hnext
      exact ⟨_, u, step_releaseRst s next hs, rfl, hu⟩

end Sys2Proof.Machine

/-! PROOFS. Worked examples (95_test_vectors.md): the words of the decode table and the known-answer vectors. -/

namespace Sys2Proof.Machine

theorem keySched_eq_pickBits (key : Key) :
    keySched sdesTables key = (pickBits 8 key k1KeyBits, pickBits 8 key k2KeyBits) :=
  Prod.ext (keySched_k1 key) (keySched_k2 key)

/-- Settles O5: each word decodes by the row of its op field, and its fields are the ones written out. -/
theorem workedWordsDecode : Obligations.WorkedWordsDecode :=
  ⟨decode_enc _ rfl, decode_dec _ rfl, decode_keygen _ rfl, decode_keygen _ rfl, decode_illegal _ rfl,
    decode_illegal _ rfl, decode_enc _ rfl, decode_dec _ rfl, decode_keygen _ rfl, decode_illegal _ rfl⟩

/-- Settles O22: the subkeys are their key bits, the rounds and the ciphertexts are run, and each plaintext is the one
whose ciphertext is given. -/
theorem knownVectorsHold : Obligations.KnownVectorsHold := by
  have hsource : encrypt sdesTables 0b11010111#8 0b1010000010#10 = 0b10101000#8 := by decide
  refine ⟨hsource, decrypt_of_encrypt sdesTables hsource, keySched_eq_pickBits _, keySched_eq_pickBits _,
    keySched_eq_pickBits _, ?fk, ?fkZeroKey, ?encrypt72, ?encryptAA, ?encryptFF,
    decrypt_of_encrypt sdesTables ?ciphertext00, decrypt_of_encrypt sdesTables ?ciphertextD7⟩
  all_goals decide

end Sys2Proof.Machine
